-- ==== Sys2Proof/Word.lean ====
section
/-! DEFINITION. The two value types of the machine.
`Nibble` is the 4-bit unsigned value of rule R70 (registers, program counter, ports, immediates,
addresses); `Byte` is the 8-bit unit of memory and of instruction encoding (rules R30, R50).
Neither can hold a value above its width, so the Nibble invariant of rule R11 holds by type. -/

namespace Sys2Proof

/-- A 4-bit unsigned value, 0 to 15 (rules R7, R70, R76). -/
abbrev Nibble := BitVec 4

/-- An 8-bit unsigned value, 0 to 255 (rule R7). -/
abbrev Byte := BitVec 8

end Sys2Proof
end

