-- ==== Sys2Proof/Config.lean ====
section
/-! DEFINITION. What is fixed for the machine and never changes as it runs: the size of memory, what
an unlisted memory address reads as, and the open policy of the four unassigned opcodes. -/

namespace Sys2Proof.Config

/-- Number of bytes of instruction memory: "fixed array of 16 Instruction" (rules R6, R17). -/
def memorySize : Nat := 16

/-- What an address that the memory list does not list reads as. As the content of the memory of
`State.reset` it is the all-zero value of the open parameter `INIT_MEM`, one that rule R131 admits
(DESIGN CHOICE, unsafe: notes/assumptions/1.md); every other content is a list with entries. -/
def unlistedByte : Byte := 0x00#8

/-- The three admitted values of `UNASSIGNED_POLICY` (rule R106, 93_implementation_defined.md U1):
what `step` does on the opcodes 1000, 1010, 1100 and 1101. -/
inductive UnassignedPolicy where
  /-- Only the program counter advances. -/
  | nopKeepCarry
  /-- The program counter advances and the carry flag is cleared. -/
  | nopClearCarry
  /-- The step has no successor: the "fatal abort" of an earlier revision. -/
  | fault
  deriving DecidableEq, Repr

/-- The value the spec fixes: `nop_keep_carry` (rules R6, R105, R106; decision D3).
DESIGN CHOICE of the spec, unsafe: notes/assumptions/2.md. -/
def unassignedPolicy : UnassignedPolicy := .nopKeepCarry

end Sys2Proof.Config
end

