-- ==== Sys2Proof/Syntax.lean ====
section
/-! DEFINITION. The instructions of the machine (one constructor per row of the opcode table, rules
R53, R57) and the assembler's spelling of them as data (rule R58). -/

namespace Sys2Proof

/-- One constructor per row of spec/opcode_table.json, in numeric order of the opcode. As in the
decode function of rule R57, an instruction that does not use its low nibble does not keep it
(rule R54), and an unassigned opcode does. The immediate is a Nibble as it stands (rule R52). -/
inductive Instr where
  /-- 0000 ADD A,imm (rule R90). -/
  | addAImm (imm : Nibble)
  /-- 0001 MOV A,B (rule R94). -/
  | movAB
  /-- 0010 IN A (rule R96). -/
  | inA
  /-- 0011 MOV A,imm (rule R92). -/
  | movAImm (imm : Nibble)
  /-- 0100 MOV B,A (rule R95). -/
  | movBA
  /-- 0101 ADD B,imm (rule R91). -/
  | addBImm (imm : Nibble)
  /-- 0110 IN B (rule R97). -/
  | inB
  /-- 0111 MOV B,imm (rule R93). -/
  | movBImm (imm : Nibble)
  /-- 1000, unassigned (rules R55, R105). -/
  | unassigned8 (imm : Nibble)
  /-- 1001 OUT B (rule R99). -/
  | outB
  /-- 1010, unassigned (rules R55, R105). -/
  | unassignedA (imm : Nibble)
  /-- 1011 OUT imm (rule R98). -/
  | outImm (imm : Nibble)
  /-- 1100, unassigned (rules R55, R105). -/
  | unassignedC (imm : Nibble)
  /-- 1101, unassigned (rules R55, R105). -/
  | unassignedD (imm : Nibble)
  /-- 1110 JNC imm (rule R101). -/
  | jncImm (imm : Nibble)
  /-- 1111 JMP imm (rule R100). -/
  | jmpImm (imm : Nibble)
  deriving DecidableEq, Repr

/-- The twelve spellings of rule R58, without their immediate. -/
inductive Spelling where
  | addA | addB | movA | movB | movAB | movBA | inA | inB | outImm | outB | jmp | jnc
  deriving DecidableEq, Repr

/-- A line of assembly as data: a spelling and the immediate written after it, if one is written.
The immediate is a plain number here, so a line can be ill-formed (rule R58); the textual parsing of
lines is outside the hardware (rule R5). -/
structure AsmLine where
  spelling  : Spelling
  immediate : Option Nat
  deriving DecidableEq, Repr

end Sys2Proof
end

