-- ==== Sys2Proof/WellFormed.lean ====
section
/-! DEFINITION. Well-formedness. An `Instr` cannot be ill-formed: its only field is a Nibble, and every
Nibble is a legal immediate and a legal jump target (rules R37, R52), so no check on `Instr` exists and
statements about all well-formed instructions quantify over all of `Instr`. What can be ill-formed is
what an assembler is given: rule R58. -/

namespace Sys2Proof

/-- Whether a spelling carries an immediate (the "uses imm" column of rule R53). -/
def Spelling.usesImmediate : Spelling → Bool
  | .addA => true
  | .addB => true
  | .movA => true
  | .movB => true
  | .movAB => false
  | .movBA => false
  | .inA => false
  | .inB => false
  | .outImm => true
  | .outB => false
  | .jmp => true
  | .jnc => true

/-- A line is well formed when an immediate stands exactly where the spelling has one and is 0 to 15:
"An immediate outside 0 to 15 has no encoding and must be refused by whatever assembles it" (rule R58). -/
def AsmLine.wellFormed (l : AsmLine) : Bool :=
  match l.spelling.usesImmediate, l.immediate with
  | true, some n => decide (n < 16)
  | true, none => false
  | false, some _ => false
  | false, none => true

end Sys2Proof
end

