-- ==== Sys2Proof/Decode.lean ====
section
/-! DEFINITION. Decoding a byte into an instruction, total on all 256 bytes, so that nothing is
rejected (rules R50 to R57); then the encoder (rule R60) and the assembler's encoding (rule R58). -/

namespace Sys2Proof

/-- The opcode, bits 7:4 of the byte (rule R51). -/
def opcodeOf (ir : Byte) : Nibble := ir.extractLsb' 4 4

/-- The immediate, bits 3:0 of the byte (rule R51). -/
def immOf (ir : Byte) : Nibble := ir.extractLsb' 0 4

/-- The byte `16 * op + imm` (rules R51, R60). -/
def packByte (op imm : Nibble) : Byte := op ++ imm

/-- The opcode map of rule R53, by the opcode's four bits, most significant first; every one of the
sixteen codes has its own arm, and the immediate never takes part in the choice. -/
def decodeFields (op imm : Nibble) : Instr :=
  match op.getLsbD 3, op.getLsbD 2, op.getLsbD 1, op.getLsbD 0 with
  | false, false, false, false => .addAImm imm
  | false, false, false, true  => .movAB
  | false, false, true,  false => .inA
  | false, false, true,  true  => .movAImm imm
  | false, true,  false, false => .movBA
  | false, true,  false, true  => .addBImm imm
  | false, true,  true,  false => .inB
  | false, true,  true,  true  => .movBImm imm
  | true,  false, false, false => .unassigned8 imm
  | true,  false, false, true  => .outB
  | true,  false, true,  false => .unassignedA imm
  | true,  false, true,  true  => .outImm imm
  | true,  true,  false, false => .unassignedC imm
  | true,  true,  false, true  => .unassignedD imm
  | true,  true,  true,  false => .jncImm imm
  | true,  true,  true,  true  => .jmpImm imm

/-- The total decode function of rule R57. -/
def decode (ir : Byte) : Instr := decodeFields (opcodeOf ir) (immOf ir)

/-- The opcode of an instruction (the `op` column of rule R53). -/
def Instr.opcode : Instr → Nibble
  | .addAImm _ => 0b0000#4
  | .movAB => 0b0001#4
  | .inA => 0b0010#4
  | .movAImm _ => 0b0011#4
  | .movBA => 0b0100#4
  | .addBImm _ => 0b0101#4
  | .inB => 0b0110#4
  | .movBImm _ => 0b0111#4
  | .unassigned8 _ => 0b1000#4
  | .outB => 0b1001#4
  | .unassignedA _ => 0b1010#4
  | .outImm _ => 0b1011#4
  | .unassignedC _ => 0b1100#4
  | .unassignedD _ => 0b1101#4
  | .jncImm _ => 0b1110#4
  | .jmpImm _ => 0b1111#4

/-- The low nibble of an instruction's byte: its immediate, or 0, the canonical low nibble, where
the instruction has none (rule R54). -/
def Instr.lowNibble : Instr → Nibble
  | .addAImm imm => imm
  | .movAB => 0#4
  | .inA => 0#4
  | .movAImm imm => imm
  | .movBA => 0#4
  | .addBImm imm => imm
  | .inB => 0#4
  | .movBImm imm => imm
  | .unassigned8 imm => imm
  | .outB => 0#4
  | .unassignedA imm => imm
  | .outImm imm => imm
  | .unassignedC imm => imm
  | .unassignedD imm => imm
  | .jncImm imm => imm
  | .jmpImm imm => imm

/-- The encoder: the canonical byte of an instruction (rules R54, R60). -/
def encode (i : Instr) : Byte := packByte i.opcode i.lowNibble

/-- Whether an opcode is one of the four unassigned ones (rule R55). -/
def unassignedOpcode (op : Nibble) : Bool :=
  op == 0b1000#4 || op == 0b1010#4 || op == 0b1100#4 || op == 0b1101#4

/-- Whether an opcode is one of the five assigned ones whose low nibble is ignored (rule R54). -/
def ignoresLowNibble (op : Nibble) : Bool :=
  op == 0b0001#4 || op == 0b0100#4 || op == 0b0010#4 || op == 0b0110#4 || op == 0b1001#4

/-- Whether an opcode is one of the two jump opcodes, JMP 1111 and JNC 1110 (rule R9). -/
def jumpOpcode (op : Nibble) : Bool := op == 0b1111#4 || op == 0b1110#4

/-- What the host's numbering of opcode-table words decodes to. An instruction is one byte (rule
R50), so the row is at most 8 bits wide, bit 0 the least significant bit of that byte, and the bits
of the byte above the row's width are 0. A wider row is no instruction of this machine. -/
def decodeTableWord (nbits w : Nat) : Option Instr :=
  if nbits ≤ 8 then some (decode (BitVec.ofNat 8 (w % 2 ^ nbits))) else none

/-- The instruction a spelling stands for, given its immediate (rule R58). -/
def Spelling.instr (imm : Nibble) : Spelling → Instr
  | .addA => .addAImm imm
  | .addB => .addBImm imm
  | .movA => .movAImm imm
  | .movB => .movBImm imm
  | .movAB => .movAB
  | .movBA => .movBA
  | .inA => .inA
  | .inB => .inB
  | .outImm => .outImm imm
  | .outB => .outB
  | .jmp => .jmpImm imm
  | .jnc => .jncImm imm

/-- Assembling a line: the byte of the instruction it spells, refused when the line is ill formed
(rules R58, R60). -/
def assemble (l : AsmLine) : Option Byte :=
  if l.wellFormed then
    some (encode (l.spelling.instr (BitVec.ofNat 4 (l.immediate.getD 0))))
  else none

end Sys2Proof
end

