-- ==== Sys2Proof/Machine/Adder.lean ====
section
/-! DEFINITION. The 4-bit adder with carry-out that gives the hardware its name (rules R70 to R75), and the
program-counter increment made from it (rule R74). -/

namespace Sys2Proof.Machine

/-- `add(a, b)` of rule R71: the exact sum, its carry-out and its low nibble. There is no carry-in
and the flag is neither read nor written here (rule R72). -/
def add (a b : Nibble) : Bool × Nibble :=
  let sum := a.toNat + b.toNat
  (decide (16 ≤ sum), BitVec.ofNat 4 (sum % 16))

/-- `inc(p)` of rule R74: the increment of the program counter, its carry-out discarded. -/
def inc (p : Nibble) : Nibble := (add p 1#4).2

end Sys2Proof.Machine
end

