-- ==== Sys2Proof/Machine/State.lean ====
section
/-! DEFINITION. The state of the machine as plain data: the record of rule R10, which rule R18 says is
exhaustive, field by field under the source's names; the state after power-on or reset (rule R24); and
the reasons a step or an operation can stop. -/

namespace Sys2Proof.Machine

/-- The instruction memory: address and byte, addresses rising, no entry equal to
`Config.unlistedByte`; an address that is not listed holds `Config.unlistedByte`. -/
abbrev Memory := List Host.Cell

/-- The whole architectural state (rules R10, R18): 149 bits and nothing else. -/
structure State where
  /-- `A`, `register_a` (rule R12). -/
  registerA      : Nibble
  /-- `B`, `register_b` (rule R12). -/
  registerB      : Nibble
  /-- `CF`, `carry` (rule R14). -/
  carry          : Bool
  /-- `PC`, `program_counter` (rule R13). -/
  programCounter : Nibble
  /-- `OUT`, `output_port` (rule R15). -/
  outputPort     : Nibble
  /-- `IN`, `input_port` (rule R16). -/
  inputPort      : Nibble
  /-- `MEM[0]` to `MEM[15]`, `memory` (rule R17). -/
  memory         : Memory
  deriving DecidableEq, Repr

/-- The machine at power-on: every field zero (rules R24, R131), with the all-zero value of the open
parameter `INIT_MEM` (DESIGN CHOICE, notes/assumptions/1.md). `Machine.powerOn` is the power-on state
for every other value of that parameter. -/
def State.reset : State where
  registerA := 0#4
  registerB := 0#4
  carry := false
  programCounter := 0#4
  outputPort := 0#4
  inputPort := 0#4
  memory := []

/-- The machine of the spec never faults (rules R88, R110). -/
inductive Fault where
  /-- Raised by `unassignedUnder` for the alternative policy `fault` of rule R106 alone, never under
  the policy the spec fixes and so never by `exec` or `step`. Safe: it proves nothing of the run. -/
  | unassignedOpcode (op : Nibble)
  deriving DecidableEq, Repr

/-- Why an instruction or an operation is refused. -/
inductive Refusal where
  /-- Raised by a dispatch arm whose instruction has no meaning in the model. No arm raises it. Safe. -/
  | notModelled (mnemonic : String)
  /-- Raised by the host operation `writeMemoryAt` for an index outside 0 to 15, which the source calls
  a "fatal/programmer error" and gives no effect (rule R35, decision D8). Never by an instruction.
  Safe: the operation has no successor. -/
  | indexOutOfRange (index : Nat)
  deriving DecidableEq, Repr

/-- What a step or an operation of this machine answers. -/
abbrev Result := Host.Outcome State Fault Refusal

end Sys2Proof.Machine
end

