-- ==== Sys2Proof/Machine/Ops.lean ====
section
/-! DEFINITION. The named operations over memory and registers: reading and writing a byte of memory, the
canonical form memory keeps, fetch, one accessor per state field, and the advance of the program counter.
Taking an exception is no operation of this machine: it has none (rules R110, R115, R116). -/

namespace Sys2Proof.Machine

/-- `MemRead(addr, 1)`: the byte an address holds (rule R31). -/
def Memory.read : Memory → Nat → Byte
  | [], _ => Config.unlistedByte
  | (k, v) :: rest, a => if k = a then v else Memory.read rest a

/-- Puts an entry in front of a list, unless it says what an unlisted address reads as anyway. -/
def Memory.consByte (a : Nat) (v : Byte) (m : Memory) : Memory :=
  if v = Config.unlistedByte then m else (a, v) :: m

/-- `MemWrite(addr, 1, v)`: the memory with one byte replaced, still in canonical form (rule R33). -/
def Memory.write : Memory → Nat → Byte → Memory
  | [], a, v => Memory.consByte a v []
  | (k, w) :: rest, a, v =>
    if a < k then Memory.consByte a v ((k, w) :: rest)
    else if a = k then Memory.consByte a v rest
    else (k, w) :: Memory.write rest a v

/-- The canonical form from address `lo` on: addresses strictly rising, below `Config.memorySize`, and no
entry equal to what an unlisted address reads as. -/
def Memory.wfFrom : Nat → Memory → Bool
  | _, [] => true
  | lo, (k, v) :: rest =>
    decide (lo ≤ k) && decide (k < Config.memorySize) && decide (v ≠ Config.unlistedByte)
      && Memory.wfFrom (k + 1) rest

/-- The canonical form of memory: equal contents are equal lists. -/
def Memory.wf (m : Memory) : Bool := Memory.wfFrom 0 m

/-- The memory that holds `bytes a` at the `n` addresses from `base` on. -/
def Memory.load (bytes : Nat → Byte) : Nat → Nat → Memory
  | _, 0 => []
  | base, n + 1 => Memory.consByte base (bytes base) (Memory.load bytes (base + 1) n)

/-- Reading one byte of the state's memory; every Nibble is a valid address and no read has a side
effect (rules R30, R31, R38). -/
def State.readMemory (s : State) (a : Nibble) : Byte := Memory.read s.memory a.toNat

/-- Fetch: the byte at the program counter (rules R31, R81). -/
def State.fetch (s : State) : Byte := s.readMemory s.programCounter

/-- `A <- v`. -/
def State.setA (s : State) (v : Nibble) : State := { s with registerA := v }

/-- `B <- v`. -/
def State.setB (s : State) (v : Nibble) : State := { s with registerB := v }

/-- `CF <- c`. -/
def State.setCarry (s : State) (c : Bool) : State := { s with carry := c }

/-- `PC <- p`. -/
def State.setPc (s : State) (p : Nibble) : State := { s with programCounter := p }

/-- `OUT <- v` (rule R45: it replaces the value and has no other effect). -/
def State.setOut (s : State) (v : Nibble) : State := { s with outputPort := v }

/-- `IN <- v`. -/
def State.setIn (s : State) (v : Nibble) : State := { s with inputPort := v }

/-- `MEM[a] <- v`. -/
def State.setByte (s : State) (a : Nibble) (v : Byte) : State :=
  { s with memory := Memory.write s.memory a.toNat v }

/-- Advance: `PC <- inc(old(PC))`; the carry of the increment never reaches `CF` (rules R13, R84). -/
def State.advance (s : State) : State := s.setPc (inc s.programCounter)

/-- The power-on state for a value of the open parameter `INIT_MEM` (rule R131): every field zero but
memory, which holds the sixteen given bytes. -/
def powerOn (initMem : Nibble → Byte) : State :=
  { State.reset with memory := Memory.load (fun a => initMem (BitVec.ofNat 4 a)) 0 Config.memorySize }

end Sys2Proof.Machine
end

