-- ==== Sys2Proof/Machine/Operands.lean ====
section
/-! DEFINITION. Every operand form of the machine: a source is the immediate, a register or the input
port; a destination is a register or the output port. The opcode alone fixes them (rules R12, R45, R52). -/

namespace Sys2Proof.Machine

/-- The two general registers (rule R12). -/
inductive Register where
  | a
  | b
  deriving DecidableEq, Repr

/-- Where a moved value comes from. -/
inductive Source where
  | immediate (imm : Nibble)
  | register (r : Register)
  | inputPort
  deriving DecidableEq, Repr

/-- Where a moved value goes. -/
inductive Destination where
  | register (r : Register)
  | outputPort
  deriving DecidableEq, Repr

/-- The value of a register; neither is hard-wired (rule R12). -/
def State.readRegister (s : State) : Register → Nibble
  | .a => s.registerA
  | .b => s.registerB

/-- The state with a register written. -/
def State.writeRegister (s : State) (r : Register) (v : Nibble) : State :=
  match r with
  | .a => s.setA v
  | .b => s.setB v

/-- The value of a source. Reading the input port leaves it as it is (rules R45, R140). -/
def State.readSource (s : State) : Source → Nibble
  | .immediate imm => imm
  | .register r => s.readRegister r
  | .inputPort => s.inputPort

/-- The state with a destination written. -/
def State.writeDestination (s : State) (d : Destination) (v : Nibble) : State :=
  match d with
  | .register r => s.writeRegister r v
  | .outputPort => s.setOut v

end Sys2Proof.Machine
end

