-- ==== Sys2Proof/Machine/Flags.lean ====
section
/-! DEFINITION. The flag computations and the three shared shapes of an assigned instruction: add to a
register, copy a value, jump. The machine has one flag, the carry (rules R14, R75). -/

namespace Sys2Proof.Machine

/-- `CF <- 0`, what every assigned instruction but ADD does to the flag (rule R14). -/
def State.clearCarry (s : State) : State := s.setCarry false

/-- `CF <- c` with the carry-out of a sum: set when it overflows, cleared when it does not (rule R14). -/
def State.setCarryFromSum (s : State) (a b : Nibble) : State := s.setCarry (add a b).1

/-- The shape of ADD: the low nibble of the sum goes to the register, the carry-out to the flag, and
the program counter advances. Both the sum and the increment read the state before the step (rule R86). -/
def addTo (r : Register) (imm : Nibble) (s : State) : State :=
  ((s.setCarryFromSum (s.readRegister r) imm).writeRegister r (add (s.readRegister r) imm).2).advance

/-- The shape of MOV, IN and OUT: the source's value, all four bits unchanged (rule R70), goes to the
destination, the flag is cleared and the program counter advances. -/
def copyTo (d : Destination) (src : Source) (s : State) : State :=
  ((s.writeDestination d (s.readSource src)).clearCarry).advance

/-- The shape of a taken jump: the whole program counter is replaced, no increment follows, and the flag
is cleared (rules R85, R100). -/
def jumpTo (target : Nibble) (s : State) : State := (s.setPc target).clearCarry

end Sys2Proof.Machine
end

