-- ==== Sys2Proof/Machine/Add.lean ====
section
/-! DEFINITION. The ADD family (42_add.md). -/

namespace Sys2Proof.Machine

/-- ADD A,imm (rule R90). -/
def execAddAImm (imm : Nibble) (s : State) : Result := .next (addTo .a imm s)

/-- ADD B,imm (rule R91). -/
def execAddBImm (imm : Nibble) (s : State) : Result := .next (addTo .b imm s)

end Sys2Proof.Machine
end

