-- ==== Sys2Proof/Machine/Jump.lean ====
section
/-! DEFINITION. Control transfer (45_jump.md). -/

namespace Sys2Proof.Machine

/-- JMP imm (rule R100). -/
def execJmpImm (imm : Nibble) (s : State) : Result := .next (jumpTo imm s)

/-- JNC imm (rule R101): taken when the old carry is clear; otherwise the normal increment (conflict
C10). The flag is cleared in both cases, after its old value was tested. -/
def execJncImm (imm : Nibble) (s : State) : Result :=
  if s.carry = false then .next (jumpTo imm s) else .next s.advance.clearCarry

end Sys2Proof.Machine
end

