-- ==== Sys2Proof/Machine/Mov.lean ====
section
/-! DEFINITION. The MOV family (43_mov.md). -/

namespace Sys2Proof.Machine

/-- MOV A,imm (rule R92). -/
def execMovAImm (imm : Nibble) (s : State) : Result := .next (copyTo (.register .a) (.immediate imm) s)

/-- MOV B,imm (rule R93). -/
def execMovBImm (imm : Nibble) (s : State) : Result := .next (copyTo (.register .b) (.immediate imm) s)

/-- MOV A,B (rule R94). -/
def execMovAB (s : State) : Result := .next (copyTo (.register .a) (.register .b) s)

/-- MOV B,A (rule R95). -/
def execMovBA (s : State) : Result := .next (copyTo (.register .b) (.register .a) s)

end Sys2Proof.Machine
end

