-- ==== Sys2Proof/Machine/Port.lean ====
section
/-! DEFINITION. The port family (44_in_out.md). -/

namespace Sys2Proof.Machine

/-- IN A (rule R96). -/
def execInA (s : State) : Result := .next (copyTo (.register .a) .inputPort s)

/-- IN B (rule R97). -/
def execInB (s : State) : Result := .next (copyTo (.register .b) .inputPort s)

/-- OUT imm (rule R98). -/
def execOutImm (imm : Nibble) (s : State) : Result := .next (copyTo .outputPort (.immediate imm) s)

/-- OUT B (rule R99). -/
def execOutB (s : State) : Result := .next (copyTo .outputPort (.register .b) s)

end Sys2Proof.Machine
end

