-- ==== Sys2Proof/Machine/Unassigned.lean ====
section
/-! DEFINITION. The four unassigned opcodes (46_unassigned.md). -/

namespace Sys2Proof.Machine

/-- What a step does on an unassigned opcode under each admitted policy (rule R106, item U1). -/
def unassignedUnder (p : Config.UnassignedPolicy) (op : Nibble) (s : State) : Result :=
  match p with
  | .nopKeepCarry => .next s.advance
  | .nopClearCarry => .next s.clearCarry.advance
  | .fault => .fault (.unassignedOpcode op)

/-- Opcode 1000 (rule R105). -/
def execUnassigned8 (s : State) : Result := unassignedUnder Config.unassignedPolicy 0b1000#4 s

/-- Opcode 1010 (rule R105). -/
def execUnassignedA (s : State) : Result := unassignedUnder Config.unassignedPolicy 0b1010#4 s

/-- Opcode 1100 (rule R105). -/
def execUnassignedC (s : State) : Result := unassignedUnder Config.unassignedPolicy 0b1100#4 s

/-- Opcode 1101 (rule R105). -/
def execUnassignedD (s : State) : Result := unassignedUnder Config.unassignedPolicy 0b1101#4 s

end Sys2Proof.Machine
end

