-- ==== Sys2Proof/Machine/Dispatch.lean ====
section
/-! DEFINITION. Execute: exactly one behaviour per instruction (rule R83). -/

namespace Sys2Proof.Machine

def exec (i : Instr) (s : State) : Host.Outcome State Fault Refusal :=
  match i with
  | .addAImm imm => Sys2Proof.Machine.execAddAImm imm s
  | .movAB => Sys2Proof.Machine.execMovAB s
  | .inA => Sys2Proof.Machine.execInA s
  | .movAImm imm => Sys2Proof.Machine.execMovAImm imm s
  | .movBA => Sys2Proof.Machine.execMovBA s
  | .addBImm imm => Sys2Proof.Machine.execAddBImm imm s
  | .inB => Sys2Proof.Machine.execInB s
  | .movBImm imm => Sys2Proof.Machine.execMovBImm imm s
  | .unassigned8 _ => Sys2Proof.Machine.execUnassigned8 s
  | .outB => Sys2Proof.Machine.execOutB s
  | .unassignedA _ => Sys2Proof.Machine.execUnassignedA s
  | .outImm imm => Sys2Proof.Machine.execOutImm imm s
  | .unassignedC _ => Sys2Proof.Machine.execUnassignedC s
  | .unassignedD _ => Sys2Proof.Machine.execUnassignedD s
  | .jncImm imm => Sys2Proof.Machine.execJncImm imm s
  | .jmpImm imm => Sys2Proof.Machine.execJmpImm imm s

end Sys2Proof.Machine
end

