-- ==== Sys2Proof/Machine/Step.lean ====
section
/-! DEFINITION. One `step`: fetch, decode, execute and advance in one indivisible operation (rules R80 to
R86, R89). -/

namespace Sys2Proof.Machine

/-- One step. The meaning of the instruction writes the program counter, so nothing is added here. -/
def step (s : State) : Host.Outcome State Fault Refusal := exec (decode s.fetch) s

/-- The state with the instruction of an opcode-table word stored where the next step fetches: the byte
at the program counter. It stands for the host's `write_memory` of that byte (rules R33, R43, R134;
notes/assumptions/12.md). -/
def State.withFetchWord (s : State) (nbits w : Nat) : State :=
  s.setByte s.programCounter (BitVec.ofNat 8 (w % 2 ^ nbits))

end Sys2Proof.Machine
end

