-- ==== Sys2Proof/Machine/HostOps.lean ====
section
/-! DEFINITION. The event-level interface (rule R21): the operations the host triggers, one at a time, each
atomic; a run of them (rule R41, decisions D5, D9, D14); and the snapshot the host reads (rule R22). -/

namespace Sys2Proof.Machine

/-- `reset()` (rule R130): registers, flag, ports and program counter to zero; memory kept. -/
def hostReset (s : State) : State :=
  (((((s.setA 0#4).setB 0#4).setCarry false).setPc 0#4).setOut 0#4).setIn 0#4

/-- `write_memory(index, value)` (rules R33, R34): one byte replaced, its value never inspected. -/
def hostWriteMemory (index : Nibble) (value : Byte) (s : State) : State := s.setByte index value

/-- `set_input(v)` (rule R16, decision D5): `IN <- v` and nothing else. -/
def hostSetInput (v : Nibble) (s : State) : State := s.setIn v

/-- `write_memory` given an index of any size: refused outside 0 to 15, never wrapped and never ignored
(rule R35, decision D8). -/
def writeMemoryAt (index : Nat) (value : Byte) (s : State) : Result :=
  if index < Config.memorySize then .next (hostWriteMemory (BitVec.ofNat 4 index) value s)
  else .refused (.indexOutOfRange index)

/-- The four operations that change the state (rule R21). The index is a Nibble and the value a Byte, so
an out-of-range argument cannot be written down (rules R34, R35). -/
inductive HostOp where
  | step
  | reset
  | writeMemory (index : Nibble) (value : Byte)
  | setInput (v : Nibble)
  deriving DecidableEq, Repr

/-- One operation of the host. -/
def applyOp (op : HostOp) (s : State) : Result :=
  match op with
  | .step => step s
  | .reset => .next (hostReset s)
  | .writeMemory index value => .next (hostWriteMemory index value s)
  | .setInput v => .next (hostSetInput v s)

/-- A run: a sequence of operations applied one after the other, stopping at the first that has no next
state (rule R41). -/
def runOps : List HostOp → State → Result
  | [], s => .next s
  | op :: ops, s =>
    match applyOp op s with
    | .next t => runOps ops t
    | .fault r => .fault r
    | .refused r => .refused r

/-- What the host reads (rule R22): every field of the state, memory as its sixteen bytes. -/
structure Snapshot where
  registerA      : Nibble
  registerB      : Nibble
  carry          : Bool
  programCounter : Nibble
  outputPort     : Nibble
  inputPort      : Nibble
  memory         : List Byte
  deriving DecidableEq, Repr

/-- The read-only snapshot (rule R22): `memory[0..16]` is the half-open range (conflict C1). -/
def snapshot (s : State) : Snapshot where
  registerA := s.registerA
  registerB := s.registerB
  carry := s.carry
  programCounter := s.programCounter
  outputPort := s.outputPort
  inputPort := s.inputPort
  memory := (List.range Config.memorySize).map (Memory.read s.memory)

end Sys2Proof.Machine
end

