-- ==== Sys2Proof/Machine/Pins.lean ====
section
/-! DEFINITION. The pin-level reading of rule R23, the spec's own choice (decision D2; DESIGN CHOICE,
notes/assumptions/10.md): one rising edge of `clk` performs exactly one operation. The event level of
Machine/HostOps.lean is the normative one; the output pins are `snapshot`. -/

namespace Sys2Proof.Machine

/-- The input pins other than `clk`, as sampled on its rising edge. -/
structure Pins where
  rst      : Bool
  memWe    : Bool
  memAddr  : Nibble
  memWdata : Byte
  inWe     : Bool
  inPort   : Nibble
  deriving DecidableEq, Repr

/-- The operation an edge performs: `rst` over `mem_we` over `in_we` over `step`. -/
def Pins.operation (p : Pins) : HostOp :=
  match p.rst, p.memWe, p.inWe with
  | true, _, _ => .reset
  | false, true, _ => .writeMemory p.memAddr p.memWdata
  | false, false, true => .setInput p.inPort
  | false, false, false => .step

/-- One rising edge of `clk`. -/
def clockEdge (p : Pins) (s : State) : Result := applyOp p.operation s

end Sys2Proof.Machine
end

