-- ==== Sys2Proof/Machine/Policy.lean ====
section
/-! DEFINITION. The machine under every admitted policy for the unassigned opcodes (rule R106), so that a
claim can be made independent of the policy the spec fixes. -/

namespace Sys2Proof.Machine

/-- Executing under a policy: an unassigned opcode follows it, every other instruction is `exec`'s. -/
def execUnder (p : Config.UnassignedPolicy) (i : Instr) (s : State) : Result :=
  if unassignedOpcode i.opcode then unassignedUnder p i.opcode s else exec i s

/-- One step under a policy. -/
def stepUnder (p : Config.UnassignedPolicy) (s : State) : Result := execUnder p (decode s.fetch) s

/-- The machine under a policy. -/
def coreUnder (p : Config.UnassignedPolicy) : Host.Core :=
  { State := State, Fault := Fault, Refusal := Refusal, step := stepUnder p, reset := State.reset }

end Sys2Proof.Machine
end

