-- ==== Sys2Proof/Machine/Reference.lean ====
section
/-! DEFINITION. The spec's own machine, written down a second time as its pseudocode has it, in plain numbers:
the whole `step` of rule R89 in its row order, with `div` and `mod` for the fields and memory as an array.
It is no part of the model; statements compare the model with it. -/

namespace Sys2Proof.Machine

/-- The state of rule R10 with every Nibble and Byte a number. -/
structure RefState where
  a   : Nat
  b   : Nat
  cf  : Bool
  pc  : Nat
  out : Nat
  inp : Nat
  mem : Nat → Nat

/-- `add` of rule R71. -/
def refAdd (a b : Nat) : Bool × Nat := (decide (a + b ≥ 16), (a + b) % 16)

/-- The whole `step` of rule R89. -/
def refStep (s : RefState) : RefState :=
  let ir := s.mem s.pc
  let op := ir / 16
  let imm := ir % 16
  let nxt := (s.pc + 1) % 16
  if op = 0b0000 then { s with a := (refAdd s.a imm).2, cf := (refAdd s.a imm).1, pc := nxt }
  else if op = 0b0101 then { s with b := (refAdd s.b imm).2, cf := (refAdd s.b imm).1, pc := nxt }
  else if op = 0b0011 then { s with a := imm, cf := false, pc := nxt }
  else if op = 0b0111 then { s with b := imm, cf := false, pc := nxt }
  else if op = 0b0001 then { s with a := s.b, cf := false, pc := nxt }
  else if op = 0b0100 then { s with b := s.a, cf := false, pc := nxt }
  else if op = 0b0010 then { s with a := s.inp, cf := false, pc := nxt }
  else if op = 0b0110 then { s with b := s.inp, cf := false, pc := nxt }
  else if op = 0b1011 then { s with out := imm, cf := false, pc := nxt }
  else if op = 0b1001 then { s with out := s.b, cf := false, pc := nxt }
  else if op = 0b1111 then { s with cf := false, pc := imm }
  else if op = 0b1110 then
    match s.cf with
    | false => { s with cf := false, pc := imm }
    | true => { s with cf := false, pc := nxt }
  else { s with pc := nxt }

/-- The four operations of rule R21 on it (rules R89, R130, R33, R16). -/
def refOp (op : HostOp) (s : RefState) : RefState :=
  match op with
  | .step => refStep s
  | .reset => { s with a := 0, b := 0, cf := false, pc := 0, out := 0, inp := 0 }
  | .writeMemory index value => { s with mem := fun k => if k = index.toNat then value.toNat else s.mem k }
  | .setInput v => { s with inp := v.toNat }

/-- A run of operations on it. -/
def refRun : List HostOp → RefState → RefState
  | [], s => s
  | op :: ops, s => refRun ops (refOp op s)

/-- The numbers a state of the model stands for. -/
def State.toRef (s : State) : RefState where
  a := s.registerA.toNat
  b := s.registerB.toNat
  cf := s.carry
  pc := s.programCounter.toNat
  out := s.outputPort.toNat
  inp := s.inputPort.toNat
  mem := fun k => (Memory.read s.memory k).toNat

end Sys2Proof.Machine
end

