-- ==== Sys2Proof/Safety.lean ====
section
/-! DEFINITION. What counts as a safe run, and the premises and relations claims are stated with. -/

namespace Sys2Proof.Machine

/-- The invariant of the model: memory is in canonical form. The other fields hold no illegal value by
their types (rule R11). -/
def CanonicalMemory (s : State) : Prop := Memory.wf s.memory = true

/-- Every address reads alike in the two states. -/
def SameMemory (s t : State) : Prop := ∀ a : Nibble, t.readMemory a = s.readMemory a

/-- The two states agree on everything but the output port. -/
def SameButOutput (s t : State) : Prop :=
  t.registerA = s.registerA ∧ t.registerB = s.registerB ∧ t.carry = s.carry ∧
    t.programCounter = s.programCounter ∧ t.inputPort = s.inputPort ∧ t.memory = s.memory

/-- The byte the next step fetches has an assigned opcode: the premise of rule R106. -/
def FetchesAssigned (s : State) : Prop := unassignedOpcode (opcodeOf s.fetch) = false

/-- None of the next `n` steps fetches an unassigned opcode (the premise of rule R106 along a run). -/
def AssignedFor : Nat → State → Prop
  | 0, _ => True
  | n + 1, s => FetchesAssigned s ∧ ∀ t, step s = .next t → AssignedFor n t

/-- A list of operations without `set_input`: a host that never calls it (rule R16). -/
def NeverSetsInput (ops : List HostOp) : Prop := ∀ v : Nibble, HostOp.setInput v ∉ ops

end Sys2Proof.Machine
end

