-- ==== Sys2Proof/Certificates/Slice0/Obligations.lean ====
section
/-! DEFINITION. The statements for the provers. Each docstring names the rule of the spec it formalises, or says
that it is derived and from what; where a clause is a decision the spec marks as its own, or the model's own
choice, the docstring names the log entry. -/

open Sys2Proof Sys2Proof.Machine

/-- Rule R131, for every value of `INIT_MEM`, the all-zero one among them. -/
def Obligations.PowerOnZeroesEverythingButMemory : Prop :=
  ∀ initMem : Nibble → Byte,
    (powerOn initMem).registerA = 0#4 ∧ (powerOn initMem).registerB = 0#4 ∧
    (powerOn initMem).carry = false ∧ (powerOn initMem).programCounter = 0#4 ∧
    (powerOn initMem).outputPort = 0#4 ∧ (powerOn initMem).inputPort = 0#4 ∧
    ∀ a : Nibble, (powerOn initMem).readMemory a = initMem a

/-- Derived. That `State.reset` takes the all-zero value of `INIT_MEM` is the model's choice (notes/assumptions/1.md). -/
def Obligations.ResetStateIsPowerOnWithZeroMemory : Prop :=
  State.reset = powerOn (fun _ => 0x00#8) ∧ applyOp .reset State.reset = .next State.reset

/-- Rule R130 and its two testable properties. -/
def Obligations.ResetOperationClearsAllButMemory : Prop :=
  ∀ s : State, ∃ t : State, applyOp .reset s = .next t ∧
    t.registerA = 0#4 ∧ t.registerB = 0#4 ∧ t.carry = false ∧ t.programCounter = 0#4 ∧
    t.outputPort = 0#4 ∧ t.inputPort = 0#4 ∧ SameMemory s t ∧
    t.fetch = s.readMemory 0#4 ∧ applyOp .reset t = .next t

/-- Derived from rule R132: `reset` restores every field but memory. -/
def Obligations.PatchedByteSurvivesReset : Prop :=
  ∀ (initMem : Nibble → Byte) (index : Nibble) (value : Byte), ∃ t : State,
    runOps [.writeMemory index value, .reset] (powerOn initMem) = .next t ∧
    t.readMemory index = value ∧ ∀ a : Nibble, a ≠ index → t.readMemory a = initMem a

/-- Rule R51: the two fields as numbers and bit by bit. -/
def Obligations.InstructionByteFields : Prop :=
  ∀ ir : Byte,
    (opcodeOf ir).toNat = ir.toNat / 16 ∧ (immOf ir).toNat = ir.toNat % 16 ∧
    ir.toNat = 16 * (opcodeOf ir).toNat + (immOf ir).toNat ∧
    (∀ j : Nat, j < 4 → (opcodeOf ir).getLsbD j = ir.getLsbD (4 + j)) ∧
    (∀ j : Nat, j < 4 → (immOf ir).getLsbD j = ir.getLsbD j)

/-- Rule R60 with its five examples. -/
def Obligations.EncodingIsSixteenTimesOpcodePlusImmediate : Prop :=
  (∀ op imm : Nibble, (packByte op imm).toNat = 16 * op.toNat + imm.toNat) ∧
    (∀ i : Instr, (encode i).toNat = 16 * i.opcode.toNat + i.lowNibble.toNat) ∧
    encode (.movAImm 1#4) = 0x31#8 ∧ encode (.addAImm 0#4) = 0x00#8 ∧ encode (.addAImm 1#4) = 0x01#8 ∧
    encode (.jmpImm 10#4) = 0xFA#8 ∧ encode (.jncImm 5#4) = 0xE5#8

/-- Derived from the table of rule R53 and the decode function of rule R57; the ignored low nibble is decision D10
(notes/assumptions/4.md). -/
def Obligations.DecodesByTheOpcodeMap : Prop :=
  ∀ imm : Nibble,
    decode (BitVec.ofNat 8 (0x00 + imm.toNat)) = .addAImm imm ∧
    decode (BitVec.ofNat 8 (0x10 + imm.toNat)) = .movAB ∧
    decode (BitVec.ofNat 8 (0x20 + imm.toNat)) = .inA ∧
    decode (BitVec.ofNat 8 (0x30 + imm.toNat)) = .movAImm imm ∧
    decode (BitVec.ofNat 8 (0x40 + imm.toNat)) = .movBA ∧
    decode (BitVec.ofNat 8 (0x50 + imm.toNat)) = .addBImm imm ∧
    decode (BitVec.ofNat 8 (0x60 + imm.toNat)) = .inB ∧
    decode (BitVec.ofNat 8 (0x70 + imm.toNat)) = .movBImm imm ∧
    decode (BitVec.ofNat 8 (0x80 + imm.toNat)) = .unassigned8 imm ∧
    decode (BitVec.ofNat 8 (0x90 + imm.toNat)) = .outB ∧
    decode (BitVec.ofNat 8 (0xA0 + imm.toNat)) = .unassignedA imm ∧
    decode (BitVec.ofNat 8 (0xB0 + imm.toNat)) = .outImm imm ∧
    decode (BitVec.ofNat 8 (0xC0 + imm.toNat)) = .unassignedC imm ∧
    decode (BitVec.ofNat 8 (0xD0 + imm.toNat)) = .unassignedD imm ∧
    decode (BitVec.ofNat 8 (0xE0 + imm.toNat)) = .jncImm imm ∧
    decode (BitVec.ofNat 8 (0xF0 + imm.toNat)) = .jmpImm imm

/-- Derived from rules R57 and R60: no bit of an encoding is dropped, over all sixteen constructors. -/
def Obligations.DecodeOfEncodeIsTheInstruction : Prop :=
  ∀ i : Instr, decode (encode i) = i

/-- Derived from rules R54 and R57; decision D10 (notes/assumptions/4.md). -/
def Obligations.EncodeOfDecodeIsTheCanonicalByte : Prop :=
  ∀ ir : Byte, encode (decode ir) =
    if ignoresLowNibble (opcodeOf ir) then packByte (opcodeOf ir) 0#4 else ir

/-- Derived from rule R54; decision D10 (notes/assumptions/4.md). -/
def Obligations.LowNibbleOfOperandlessOpcodesIsIgnored : Prop :=
  ∀ op imm imm' : Nibble, ignoresLowNibble op = true →
    decode (packByte op imm) = decode (packByte op imm') ∧
    ∀ s : State, exec (decode (packByte op imm)) s = exec (decode (packByte op imm')) s

/-- Rule R71. -/
def Obligations.AdderResultAndCarryOut : Prop :=
  ∀ a b : Nibble,
    (add a b).2.toNat = (a.toNat + b.toNat) % 16 ∧
    (add a b).1 = decide (a.toNat + b.toNat ≥ 16) ∧
    16 * (add a b).1.toNat + (add a b).2.toNat = a.toNat + b.toNat

/-- Derived: the laws of rule R73. -/
def Obligations.AdderLaws : Prop :=
  (∀ a b : Nibble, add a b = add b a) ∧
    (∀ a : Nibble, add a 0#4 = (false, a) ∧ add 0#4 a = (false, a)) ∧
    (∀ a b : Nibble, ((add a b).1 = true ↔ (add a b).2 < a) ∧ ((add a b).1 = true ↔ (add a b).2 < b)) ∧
    (∀ a k : Nibble, 1 ≤ k.toNat →
      (add a (BitVec.ofNat 4 (16 - k.toNat))).1 = decide (a.toNat ≥ k.toNat) ∧
      (add a (BitVec.ofNat 4 (16 - k.toNat))).2.toNat = (a.toNat + 16 - k.toNat) % 16) ∧
    add 15#4 15#4 = (true, 14#4) ∧ add 7#4 8#4 = (false, 15#4)

/-- Rule R74. -/
def Obligations.IncrementWrapsAndDropsItsCarry : Prop :=
  (∀ p : Nibble, inc p = (add p 1#4).2 ∧ (inc p).toNat = (p.toNat + 1) % 16 ∧
      ((add p 1#4).1 = true ↔ p = 15#4)) ∧
    inc 15#4 = 0#4 ∧
    ∀ s : State, s.advance.carry = s.carry ∧ s.advance.programCounter = inc s.programCounter

/-- Rule R90. -/
def Obligations.AddAImmAddsAndSetsCarry : Prop :=
  ∀ (imm : Nibble) (s : State),
    decode (BitVec.ofNat 8 (0x00 + imm.toNat)) = .addAImm imm ∧
    ∃ t : State, exec (.addAImm imm) s = .next t ∧
      t.registerA.toNat = (s.registerA.toNat + imm.toNat) % 16 ∧
      t.carry = decide (s.registerA.toNat + imm.toNat ≥ 16) ∧
      t.programCounter.toNat = (s.programCounter.toNat + 1) % 16 ∧
      t.registerB = s.registerB ∧ t.outputPort = s.outputPort ∧ t.inputPort = s.inputPort ∧ SameMemory s t

/-- Rule R91. -/
def Obligations.AddBImmAddsAndSetsCarry : Prop :=
  ∀ (imm : Nibble) (s : State),
    decode (BitVec.ofNat 8 (0x50 + imm.toNat)) = .addBImm imm ∧
    ∃ t : State, exec (.addBImm imm) s = .next t ∧
      t.registerB.toNat = (s.registerB.toNat + imm.toNat) % 16 ∧
      t.carry = decide (s.registerB.toNat + imm.toNat ≥ 16) ∧
      t.programCounter.toNat = (s.programCounter.toNat + 1) % 16 ∧
      t.registerA = s.registerA ∧ t.outputPort = s.outputPort ∧ t.inputPort = s.inputPort ∧ SameMemory s t

/-- Rule R92. -/
def Obligations.MovAImmLoadsTheImmediate : Prop :=
  ∀ (imm : Nibble) (s : State),
    decode (BitVec.ofNat 8 (0x30 + imm.toNat)) = .movAImm imm ∧
    ∃ t : State, exec (.movAImm imm) s = .next t ∧
      t.registerA = imm ∧ t.carry = false ∧ t.programCounter.toNat = (s.programCounter.toNat + 1) % 16 ∧
      t.registerB = s.registerB ∧ t.outputPort = s.outputPort ∧ t.inputPort = s.inputPort ∧ SameMemory s t

/-- Rule R93. -/
def Obligations.MovBImmLoadsTheImmediate : Prop :=
  ∀ (imm : Nibble) (s : State),
    decode (BitVec.ofNat 8 (0x70 + imm.toNat)) = .movBImm imm ∧
    ∃ t : State, exec (.movBImm imm) s = .next t ∧
      t.registerB = imm ∧ t.carry = false ∧ t.programCounter.toNat = (s.programCounter.toNat + 1) % 16 ∧
      t.registerA = s.registerA ∧ t.outputPort = s.outputPort ∧ t.inputPort = s.inputPort ∧ SameMemory s t

/-- Rule R94.
Only the canonical byte is decoded here: that the other fifteen decode alike is decision D10, stated as
`LowNibbleOfOperandlessOpcodesIsIgnored`. -/
def Obligations.MovABCopiesBIntoA : Prop :=
  ∀ s : State,
    decode 0x10#8 = .movAB ∧
    ∃ t : State, exec (.movAB) s = .next t ∧
      t.registerA = s.registerB ∧ t.carry = false ∧
      t.programCounter.toNat = (s.programCounter.toNat + 1) % 16 ∧
      t.registerB = s.registerB ∧ t.outputPort = s.outputPort ∧ t.inputPort = s.inputPort ∧ SameMemory s t

/-- Rule R95.
Only the canonical byte is decoded here: that the other fifteen decode alike is decision D10, stated as
`LowNibbleOfOperandlessOpcodesIsIgnored`. -/
def Obligations.MovBACopiesAIntoB : Prop :=
  ∀ s : State,
    decode 0x40#8 = .movBA ∧
    ∃ t : State, exec (.movBA) s = .next t ∧
      t.registerB = s.registerA ∧ t.carry = false ∧
      t.programCounter.toNat = (s.programCounter.toNat + 1) % 16 ∧
      t.registerA = s.registerA ∧ t.outputPort = s.outputPort ∧ t.inputPort = s.inputPort ∧ SameMemory s t

/-- Rule R96.
Only the canonical byte is decoded here: that the other fifteen decode alike is decision D10, stated as
`LowNibbleOfOperandlessOpcodesIsIgnored`. -/
def Obligations.InACopiesInputPortIntoA : Prop :=
  ∀ s : State,
    decode 0x20#8 = .inA ∧
    ∃ t : State, exec (.inA) s = .next t ∧
      t.registerA = s.inputPort ∧ t.carry = false ∧
      t.programCounter.toNat = (s.programCounter.toNat + 1) % 16 ∧
      t.registerB = s.registerB ∧ t.outputPort = s.outputPort ∧ t.inputPort = s.inputPort ∧ SameMemory s t

/-- Rule R97.
Only the canonical byte is decoded here: that the other fifteen decode alike is decision D10, stated as
`LowNibbleOfOperandlessOpcodesIsIgnored`. -/
def Obligations.InBCopiesInputPortIntoB : Prop :=
  ∀ s : State,
    decode 0x60#8 = .inB ∧
    ∃ t : State, exec (.inB) s = .next t ∧
      t.registerB = s.inputPort ∧ t.carry = false ∧
      t.programCounter.toNat = (s.programCounter.toNat + 1) % 16 ∧
      t.registerA = s.registerA ∧ t.outputPort = s.outputPort ∧ t.inputPort = s.inputPort ∧ SameMemory s t

/-- Rule R98. -/
def Obligations.OutImmWritesTheOutputPort : Prop :=
  ∀ (imm : Nibble) (s : State),
    decode (BitVec.ofNat 8 (0xB0 + imm.toNat)) = .outImm imm ∧
    ∃ t : State, exec (.outImm imm) s = .next t ∧
      t.outputPort = imm ∧ t.carry = false ∧ t.programCounter.toNat = (s.programCounter.toNat + 1) % 16 ∧
      t.registerA = s.registerA ∧ t.registerB = s.registerB ∧ t.inputPort = s.inputPort ∧ SameMemory s t

/-- Rule R99.
Only the canonical byte is decoded here: that the other fifteen decode alike is decision D10, stated as
`LowNibbleOfOperandlessOpcodesIsIgnored`. -/
def Obligations.OutBWritesTheOutputPort : Prop :=
  ∀ s : State,
    decode 0x90#8 = .outB ∧
    ∃ t : State, exec (.outB) s = .next t ∧
      t.outputPort = s.registerB ∧ t.carry = false ∧
      t.programCounter.toNat = (s.programCounter.toNat + 1) % 16 ∧
      t.registerA = s.registerA ∧ t.registerB = s.registerB ∧ t.inputPort = s.inputPort ∧ SameMemory s t

/-- Rule R100. -/
def Obligations.JmpReplacesTheProgramCounter : Prop :=
  ∀ (imm : Nibble) (s : State),
    decode (BitVec.ofNat 8 (0xF0 + imm.toNat)) = .jmpImm imm ∧
    ∃ t : State, exec (.jmpImm imm) s = .next t ∧
      t.programCounter = imm ∧ t.carry = false ∧
      t.registerA = s.registerA ∧ t.registerB = s.registerB ∧ t.outputPort = s.outputPort ∧ t.inputPort = s.inputPort ∧ SameMemory s t

/-- Rule R101, with the not-taken case of conflict C10 (notes/assumptions/8.md). -/
def Obligations.JncJumpsOnClearCarry : Prop :=
  ∀ (imm : Nibble) (s : State),
    decode (BitVec.ofNat 8 (0xE0 + imm.toNat)) = .jncImm imm ∧
    ∃ t : State, exec (.jncImm imm) s = .next t ∧
      (s.carry = false → t.programCounter = imm) ∧
      (s.carry = true → t.programCounter.toNat = (s.programCounter.toNat + 1) % 16) ∧
      t.carry = false ∧
      t.registerA = s.registerA ∧ t.registerB = s.registerB ∧ t.outputPort = s.outputPort ∧ t.inputPort = s.inputPort ∧ SameMemory s t

/-- Derived from rule R105; the policy is decision D3 (notes/assumptions/2.md). -/
def Obligations.UnassignedOpcodesOnlyAdvance : Prop :=
  ∀ (imm : Nibble) (s : State) (i : Instr),
    (i = .unassigned8 imm ∨ i = .unassignedA imm ∨ i = .unassignedC imm ∨ i = .unassignedD imm) →
    ∃ t : State, exec i s = .next t ∧ t.programCounter.toNat = (s.programCounter.toNat + 1) % 16 ∧
      t.carry = s.carry ∧ t.registerA = s.registerA ∧ t.registerB = s.registerB ∧ t.outputPort = s.outputPort ∧ t.inputPort = s.inputPort ∧
      SameMemory s t

/-- Rules R81 and R82. The execution writes the program counter itself, so nothing surrounds it. -/
def Obligations.StepRunsTheFetchedInstruction : Prop :=
  (∀ (s : State) (ir : Byte), s.readMemory s.programCounter = ir →
      step s = exec (decodeFields (opcodeOf ir) (immOf ir)) s) ∧
    (∀ (s : State) (i : Instr), s.readMemory s.programCounter = encode i → step s = exec i s)

/-- Derived from rules R33 and R43; `withFetchWord` is the model's own (notes/assumptions/12.md). -/
def Obligations.PlacedWordIsTheNextInstruction : Prop :=
  ∀ (s : State) (nbits w : Nat) (i : Instr), CanonicalMemory s → decodeTableWord nbits w = some i →
    step (s.withFetchWord nbits w) = exec i (s.withFetchWord nbits w) ∧
    s.withFetchWord nbits w = { s with memory := (s.withFetchWord nbits w).memory } ∧
    ∀ a : Nibble, a ≠ s.programCounter → (s.withFetchWord nbits w).readMemory a = s.readMemory a

/-- Rule R110. -/
def Obligations.EveryAssignedInstructionIsTotal : Prop :=
  ∀ (i : Instr) (s : State), unassignedOpcode i.opcode = false → ∃ t : State, exec i s = .next t

/-- Derived from rule R88. That an unassigned opcode does not stop the machine is decision D3
(notes/assumptions/2.md); `EveryAssignedInstructionIsTotal` says it for the twelve instructions without it. -/
def Obligations.StepsNeverStop : Prop :=
  ∀ (s : State) (n : Nat), ∃ t : State, Host.Core.run Sys2Proof.core n s = .next t

/-- Rule R20 (conflict C2). -/
def Obligations.StepNeverWritesInputPortOrMemory : Prop :=
  ∀ s t : State, step s = .next t →
    t.inputPort = s.inputPort ∧ t.memory = s.memory ∧ SameMemory s t

/-- Rule R83. -/
def Obligations.EachBehaviourWritesAtMostOneDestination : Prop :=
  (∀ s : State, step s = exec (decode s.fetch) s) ∧
    (∀ (i : Instr) (s t : State), exec i s = .next t →
      (t.registerB = s.registerB ∧ t.outputPort = s.outputPort) ∨
      (t.registerA = s.registerA ∧ t.outputPort = s.outputPort) ∨
      (t.registerA = s.registerA ∧ t.registerB = s.registerB)) ∧
    (∀ (i : Instr) (s : State), unassignedOpcode i.opcode = false →
      ∃ c : Bool, ∀ (old : Bool) (t : State), exec i (s.setCarry old) = .next t → t.carry = c)

/-- Derived: the table of rule R87, which the spec marks as derived; its last row is decision D3
(notes/assumptions/2.md). -/
def Obligations.FrameOfEveryInstruction : Prop :=
  ∀ (imm : Nibble) (i : Instr) (s t : State), exec i s = .next t →
    ((i = .addAImm imm ∨ i = .movAImm imm ∨ i = .movAB ∨ i = .inA) →
      t.registerB = s.registerB ∧ t.outputPort = s.outputPort ∧ t.inputPort = s.inputPort ∧ SameMemory s t) ∧
    ((i = .addBImm imm ∨ i = .movBImm imm ∨ i = .movBA ∨ i = .inB) →
      t.registerA = s.registerA ∧ t.outputPort = s.outputPort ∧ t.inputPort = s.inputPort ∧ SameMemory s t) ∧
    ((i = .outImm imm ∨ i = .outB) →
      t.registerA = s.registerA ∧ t.registerB = s.registerB ∧ t.inputPort = s.inputPort ∧ SameMemory s t) ∧
    ((i = .jmpImm imm ∨ i = .jncImm imm) →
      t.registerA = s.registerA ∧ t.registerB = s.registerB ∧ t.outputPort = s.outputPort ∧ t.inputPort = s.inputPort ∧
      SameMemory s t) ∧
    ((i = .unassigned8 imm ∨ i = .unassignedA imm ∨ i = .unassignedC imm ∨ i = .unassignedD imm) →
      t.registerA = s.registerA ∧ t.registerB = s.registerB ∧ t.carry = s.carry ∧ t.outputPort = s.outputPort ∧ t.inputPort = s.inputPort ∧
      SameMemory s t)

/-- Rule R84. Its clause on the four unassigned opcodes is decision D3, stated as `UnassignedOpcodesOnlyAdvance`. -/
def Obligations.NonJumpStepsAdvanceByOne : Prop :=
  (∀ s : State, FetchesAssigned s → jumpOpcode (opcodeOf s.fetch) = false →
      ∃ t : State, step s = .next t ∧ t.programCounter.toNat = (s.programCounter.toNat + 1) % 16) ∧
    (∀ s : State, opcodeOf s.fetch = 0b1110#4 → s.carry = true →
      ∃ t : State, step s = .next t ∧ t.programCounter.toNat = (s.programCounter.toNat + 1) % 16) ∧
    (∀ s : State, s.advance.carry = s.carry)

/-- Rule R85 (conflict C10, notes/assumptions/8.md). -/
def Obligations.JumpsSkipTheIncrement : Prop :=
  ∀ (s : State) (imm : Nibble),
    (s.fetch = packByte 0b1111#4 imm → ∃ t : State, step s = .next t ∧ t.programCounter = imm) ∧
    (s.fetch = packByte 0b1110#4 imm → s.carry = false →
      ∃ t : State, step s = .next t ∧ t.programCounter = imm) ∧
    (s.fetch = packByte 0b1110#4 imm → s.carry = true →
      ∃ t : State, step s = .next t ∧ t.programCounter.toNat = (s.programCounter.toNat + 1) % 16)

/-- Rule R14. Its row on the unassigned opcodes is decision D3, stated as `UnassignedOpcodesOnlyAdvance`. -/
def Obligations.CarryAfterEveryAssignedOpcode : Prop :=
  (∀ s t : State, step s = .next t → FetchesAssigned s →
      t.carry =
        if opcodeOf s.fetch = 0b0000#4 then decide (s.registerA.toNat + (immOf s.fetch).toNat ≥ 16)
        else if opcodeOf s.fetch = 0b0101#4 then decide (s.registerB.toNat + (immOf s.fetch).toNat ≥ 16)
        else false) ∧
    (∀ (i : Instr) (s : State) (c : Bool), unassignedOpcode i.opcode = false → i.opcode ≠ 0b1110#4 →
      exec i (s.setCarry c) = exec i s) ∧
    (∀ s : State, s.advance.carry = s.carry ∧ (hostReset s).carry = false)

/-- Derived: rule R138, over two steps from any state. -/
def Obligations.CarryLivesForOneInstruction : Prop :=
  ∀ s t : State, step s = .next t → FetchesAssigned s → opcodeOf t.fetch = 0b1110#4 →
    ∃ u : State, step t = .next u ∧ u.carry = false ∧
      (opcodeOf s.fetch ≠ 0b0000#4 → opcodeOf s.fetch ≠ 0b0101#4 → u.programCounter = immOf t.fetch) ∧
      (opcodeOf s.fetch = 0b0000#4 → u.programCounter =
        if s.registerA.toNat + (immOf s.fetch).toNat ≥ 16 then inc t.programCounter else immOf t.fetch) ∧
      (opcodeOf s.fetch = 0b0101#4 → u.programCounter =
        if s.registerB.toNat + (immOf s.fetch).toNat ≥ 16 then inc t.programCounter else immOf t.fetch)

/-- Derived from rules R33 and R34; the premise and the last clause, canonical memory, are the model's own form of
memory (DESIGN CHOICE, notes/assumptions/5.md). -/
def Obligations.WriteMemoryReplacesOneByte : Prop :=
  ∀ (s : State) (index : Nibble) (value : Byte), CanonicalMemory s →
    ∃ t : State, applyOp (.writeMemory index value) s = .next t ∧
      t.readMemory index = value ∧
      (∀ a : Nibble, a ≠ index → t.readMemory a = s.readMemory a) ∧
      t.registerA = s.registerA ∧ t.registerB = s.registerB ∧ t.carry = s.carry ∧
      t.programCounter = s.programCounter ∧ t.outputPort = s.outputPort ∧ t.inputPort = s.inputPort ∧ CanonicalMemory t

/-- Rule R43, at any later step and at once. -/
def Obligations.WrittenByteIsFetchedThere : Prop :=
  ∀ (s t : State) (index : Nibble) (value : Byte) (n : Nat), CanonicalMemory s →
    Host.Core.run Sys2Proof.core n (hostWriteMemory index value s) = .next t →
    t.programCounter = index → step t = exec (decode value) t

/-- Derived from rules R19, R31 and R33: nothing else writes memory. -/
def Obligations.MemoryChangesOnlyByWriteMemory : Prop :=
  ∀ (ops : List HostOp) (s t : State) (a : Nibble), CanonicalMemory s →
    (∀ value : Byte, HostOp.writeMemory a value ∉ ops) → runOps ops s = .next t →
    t.readMemory a = s.readMemory a

/-- Derived from rule R16 and decision D5 (notes/assumptions/3.md). -/
def Obligations.InputStaysZeroWithoutSetInput : Prop :=
  ∀ (ops : List HostOp) (s t : State), NeverSetsInput ops → s.inputPort = 0#4 →
    runOps ops s = .next t → t.inputPort = 0#4

/-- Derived from rule R16 and decision D5 (notes/assumptions/3.md). -/
def Obligations.SetInputWritesOnlyTheInputPort : Prop :=
  ∀ (v : Nibble) (s : State), ∃ t : State, applyOp (.setInput v) s = .next t ∧
    t.inputPort = v ∧ t.registerA = s.registerA ∧ t.registerB = s.registerB ∧ t.carry = s.carry ∧
    t.programCounter = s.programCounter ∧ t.outputPort = s.outputPort ∧ SameMemory s t

/-- Derived from rule R15, of a step alone: `reset` writes OUT too, as `ResetOperationClearsAllButMemory` states. For
the unassigned opcodes it rests on decision D3 (notes/assumptions/2.md). -/
def Obligations.OutputPortKeepsItsValue : Prop :=
  ∀ s t : State, step s = .next t → t.outputPort =
    if opcodeOf s.fetch = 0b1011#4 then immOf s.fetch
    else if opcodeOf s.fetch = 0b1001#4 then s.registerB
    else s.outputPort

/-- Derived from rule R15, "No instruction reads it", over whole runs. -/
def Obligations.OutputPortIsNeverRead : Prop :=
  ∀ (ops : List HostOp) (s t : State) (v : Nibble), runOps ops s = .next t →
    ∃ t' : State, runOps ops (s.setOut v) = .next t' ∧ SameButOutput t t'

/-- Rule R22; the string renderings of the snapshot are outside the hardware (rule R5). -/
def Obligations.SnapshotShowsTheWholeState : Prop :=
  (∀ s : State,
      (snapshot s).registerA = s.registerA ∧ (snapshot s).registerB = s.registerB ∧
      (snapshot s).carry = s.carry ∧ (snapshot s).programCounter = s.programCounter ∧
      (snapshot s).outputPort = s.outputPort ∧ (snapshot s).inputPort = s.inputPort ∧
      (snapshot s).memory.length = 16 ∧
      ∀ a : Nibble, (snapshot s).memory[a.toNat]? = some (s.readMemory a)) ∧
    (∀ s t : State, CanonicalMemory s → CanonicalMemory t → snapshot s = snapshot t → s = t)

/-- Derived from rule R35 and decision D8 (notes/assumptions/6.md). -/
def Obligations.OutOfRangeIndexIsRefused : Prop :=
  ∀ (index : Nat) (value : Byte) (s : State),
    (16 ≤ index → writeMemoryAt index value s = .refused (.indexOutOfRange index)) ∧
    (index < 16 → writeMemoryAt index value s = applyOp (.writeMemory (BitVec.ofNat 4 index) value) s)

/-- Derived from rule R23 and decision D2 (notes/assumptions/10.md). -/
def Obligations.ClockEdgeFollowsPinPriority : Prop :=
  ∀ (p : Pins) (s : State),
    (p.rst = true → clockEdge p s = .next (hostReset s)) ∧
    (p.rst = false → p.memWe = true → clockEdge p s = .next (hostWriteMemory p.memAddr p.memWdata s)) ∧
    (p.rst = false → p.memWe = false → p.inWe = true → clockEdge p s = .next (hostSetInput p.inPort s)) ∧
    (p.rst = false → p.memWe = false → p.inWe = false → clockEdge p s = step s)

/-- Derived from rules R21 and R41: every operation is total on every state. Steps on unassigned opcodes rest on
decision D3 (notes/assumptions/2.md). -/
def Obligations.EveryHostRunGoesThrough : Prop :=
  ∀ (ops : List HostOp) (s : State), ∃ t : State, runOps ops s = .next t

/-- Derived; the canonical list form is the model's own (notes/assumptions/5.md). -/
def Obligations.CanonicalMemoriesThatReadAlikeAreEqual : Prop :=
  ∀ m m' : Memory, Memory.wf m = true → Memory.wf m' = true →
    (∀ a : Nibble, Memory.read m a.toNat = Memory.read m' a.toNat) → m = m'

/-- Derived; the invariant is the model's own (notes/assumptions/5.md). -/
def Obligations.ResetStateMeetsTheInvariant : Prop :=
  CanonicalMemory State.reset

/-- Derived from rule R131: no value of `INIT_MEM` is shut out; the invariant is the model's own (notes/assumptions/5.md). -/
def Obligations.EveryPowerOnStateMeetsTheInvariant : Prop :=
  (∀ initMem : Nibble → Byte, CanonicalMemory (powerOn initMem)) ∧
    (∀ s : State, CanonicalMemory s → { State.reset with memory := s.memory } = powerOn s.readMemory)

/-- Derived; the invariant is the model's own (notes/assumptions/5.md). -/
def Obligations.EveryStepKeepsTheInvariant : Prop :=
  ∀ s t : State, CanonicalMemory s → step s = .next t → CanonicalMemory t

/-- Derived; the invariant is the model's own (notes/assumptions/5.md). -/
def Obligations.EveryHostRunKeepsTheInvariant : Prop :=
  ∀ (ops : List HostOp) (s t : State), CanonicalMemory s → runOps ops s = .next t → CanonicalMemory t

/-- Derived from rules R89, R130, R33 and R16; the unassigned arm is decision D3 and `set_input` is decision D5
(notes/assumptions/2.md, notes/assumptions/3.md). -/
def Obligations.EveryHostRunRefinesTheSpecsMachine : Prop :=
  ∀ (ops : List HostOp) (s : State), CanonicalMemory s →
    ∃ t : State, runOps ops s = .next t ∧ t.toRef = refRun ops s.toRef

/-- Derived from rules R59 and R100: the halt idiom. -/
def Obligations.JumpToItselfHoldsTheMachine : Prop :=
  ∀ (s : State) (n : Nat), s.readMemory s.programCounter = packByte 0b1111#4 s.programCounter →
    Host.Core.run Sys2Proof.core (n + 1) s = .next (s.setCarry false)

/-- Derived from rules R102 and R136. -/
def Obligations.JumpTakesEffectAtTheNextFetch : Prop :=
  ∀ (s : State) (imm : Nibble),
    (s.fetch = packByte 0b1111#4 imm ∨ (s.fetch = packByte 0b1110#4 imm ∧ s.carry = false)) →
    ∃ t : State, step s = .next t ∧ step t = exec (decode (s.readMemory imm)) t

/-- Derived from rule R59: no encoding is a pure no-op when `CF = 1`. -/
def Obligations.NoAssignedInstructionIsAPureNop : Prop :=
  ∀ (i : Instr) (s t : State) (p : Nibble), unassignedOpcode i.opcode = false → s.carry = true →
    exec i s = .next t → t ≠ s.setPc p

/-- Derived from rule R106: the premise that makes a claim independent of decision D3 (notes/assumptions/2.md). -/
def Obligations.UnassignedPolicyDoesNotMatterWithoutUnassignedOpcodes : Prop :=
  (∀ s : State, stepUnder Config.unassignedPolicy s = step s) ∧
    (∀ (p : Config.UnassignedPolicy) (n : Nat) (s : State), AssignedFor n s →
      Host.Core.run (coreUnder p) n s = Host.Core.run Sys2Proof.core n s)

/-- Derived from rule R58; the spellings are decision D15 (notes/assumptions/14.md). -/
def Obligations.AssemblerEncodesWhatItSpells : Prop :=
  (∀ (sp : Spelling) (n : Nat), 16 ≤ n → assemble ⟨sp, some n⟩ = none) ∧
    (∀ l : AsmLine, l.wellFormed = false → assemble l = none) ∧
    (∀ l : AsmLine, l.wellFormed = true → ∃ b : Byte, assemble l = some b ∧
      decode b = l.spelling.instr (BitVec.ofNat 4 (l.immediate.getD 0)))
end

