-- ==== Sys2Proof/Laws/Adder.lean ====
section
/-! SUPPORT. What the adder and the increment compute, as numbers (rules R71, R74). -/

namespace Sys2Proof.Machine

/-- The carry-out is the comparison of the exact sum with 16. -/
theorem add_carry (a b : Nibble) : (add a b).1 = decide (16 ≤ a.toNat + b.toNat) := rfl

/-- The result is the exact sum modulo 16. -/
theorem add_result_toNat (a b : Nibble) : (add a b).2.toNat = (a.toNat + b.toNat) % 16 := by
  simp [add]

/-- The increment as a number: one more, modulo 16. -/
theorem inc_toNat (p : Nibble) : (inc p).toNat = (p.toNat + 1) % 16 := by
  simp [inc, add_result_toNat]

end Sys2Proof.Machine
end

