-- ==== Sys2Proof/Laws/Decode.lean ====
section
/-! SUPPORT. Packing and unpacking the two fields of a byte (rules R51, R60), and what the decoder reads from
a packed byte. -/

namespace Sys2Proof

@[simp] theorem opcodeOf_packByte (op imm : Nibble) : opcodeOf (packByte op imm) = op := by
  revert op imm; decide

@[simp] theorem immOf_packByte (op imm : Nibble) : immOf (packByte op imm) = imm := by
  revert op imm; decide

theorem opcodeOf_toNat (ir : Byte) : (opcodeOf ir).toNat = ir.toNat / 16 := by
  simp [opcodeOf, BitVec.extractLsb'_toNat, Nat.shiftRight_eq_div_pow]
  omega

theorem immOf_toNat (ir : Byte) : (immOf ir).toNat = ir.toNat % 16 := by
  simp [immOf, BitVec.extractLsb'_toNat]

/-- Decoding a packed byte goes by its fields. -/
theorem decode_packByte (op imm : Nibble) : decode (packByte op imm) = decodeFields op imm := by
  simp [decode]

/-- Decoding never changes the opcode, and keeps the immediate wherever the instruction has one. -/
theorem decodeFields_opcode (op imm : Nibble) : (decodeFields op imm).opcode = op := by
  revert op imm; decide

end Sys2Proof
end

