-- ==== Sys2Proof/Laws/Memory.lean ====
section
/-! SUPPORT. The laws of memory: reading after writing and after loading, and that every memory operation
keeps the canonical form. -/

namespace Sys2Proof.Machine

theorem Memory.read_consByte (a : Nat) (v : Byte) (m : Memory) (k : Nat)
    (h : Memory.read m a = Config.unlistedByte) :
    Memory.read (Memory.consByte a v m) k = if a = k then v else Memory.read m k := by
  unfold Memory.consByte
  split
  · split
    · subst_vars; assumption
    · rfl
  · rfl

/-- An address below a canonical list is not listed. -/
theorem Memory.read_below {m : Memory} {lo a : Nat} (h : Memory.wfFrom lo m = true) (ha : a < lo) :
    Memory.read m a = Config.unlistedByte := by
  induction m generalizing lo with
  | nil => rfl
  | cons e rest ih =>
    obtain ⟨k, v⟩ := e
    simp only [Memory.wfFrom, Bool.and_eq_true, decide_eq_true_eq] at h
    rw [Memory.read, if_neg (by omega), ih h.2 (by omega)]

/-- An address from the memory size on is not listed. -/
theorem Memory.read_above {m : Memory} {lo a : Nat} (h : Memory.wfFrom lo m = true)
    (ha : Config.memorySize ≤ a) : Memory.read m a = Config.unlistedByte := by
  induction m generalizing lo with
  | nil => rfl
  | cons e rest ih =>
    obtain ⟨k, v⟩ := e
    simp only [Memory.wfFrom, Bool.and_eq_true, decide_eq_true_eq] at h
    rw [Memory.read, if_neg (by omega), ih h.2]

theorem Memory.wfFrom_mono {m : Memory} {lo lo' : Nat} (h : Memory.wfFrom lo m = true) (hl : lo' ≤ lo) :
    Memory.wfFrom lo' m = true := by
  cases m with
  | nil => rfl
  | cons e rest =>
    obtain ⟨k, v⟩ := e
    simp only [Memory.wfFrom, Bool.and_eq_true, decide_eq_true_eq] at h ⊢
    exact ⟨⟨⟨by omega, h.1.1.2⟩, h.1.2⟩, h.2⟩

theorem Memory.wfFrom_consByte {m : Memory} {lo a : Nat} {v : Byte} (h : Memory.wfFrom (a + 1) m = true)
    (hl : lo ≤ a) (ha : a < Config.memorySize) : Memory.wfFrom lo (Memory.consByte a v m) = true := by
  unfold Memory.consByte
  split
  · exact Memory.wfFrom_mono h (by omega)
  · rename_i hv
    simp only [Memory.wfFrom, Bool.and_eq_true, decide_eq_true_eq]
    exact ⟨⟨⟨hl, ha⟩, hv⟩, h⟩

/-- Reading after a write: the written address gives the value, every other address is unchanged. -/
theorem Memory.read_write {m : Memory} {lo : Nat} (h : Memory.wfFrom lo m = true) (a : Nat) (v : Byte)
    (k : Nat) : Memory.read (Memory.write m a v) k = if a = k then v else Memory.read m k := by
  induction m generalizing lo with
  | nil => exact Memory.read_consByte a v [] k rfl
  | cons e rest ih =>
    obtain ⟨j, w⟩ := e
    simp only [Memory.wfFrom, Bool.and_eq_true, decide_eq_true_eq] at h
    simp only [Memory.write]
    split
    · rename_i hlt
      refine Memory.read_consByte a v _ k ?_
      rw [Memory.read, if_neg (by omega), Memory.read_below h.2 (by omega)]
    · split
      · rename_i heq
        rw [Memory.read_consByte a v _ k (Memory.read_below h.2 (by omega))]
        by_cases hk : a = k
        · simp [hk]
        · simp only [hk, if_false, Memory.read]
          rw [if_neg (by omega)]
      · rename_i hne
        simp only [Memory.read, ih h.2]
        by_cases hjk : j = k
        · rw [if_pos hjk, if_neg (by omega), if_pos hjk]
        · rw [if_neg hjk, if_neg hjk]

theorem Memory.wfFrom_write {m : Memory} {lo a : Nat} {v : Byte} (h : Memory.wfFrom lo m = true)
    (hl : lo ≤ a) (ha : a < Config.memorySize) : Memory.wfFrom lo (Memory.write m a v) = true := by
  induction m generalizing lo with
  | nil => exact Memory.wfFrom_consByte rfl hl ha
  | cons e rest ih =>
    obtain ⟨j, w⟩ := e
    have h' := h
    simp only [Memory.wfFrom, Bool.and_eq_true, decide_eq_true_eq] at h'
    simp only [Memory.write]
    split
    · refine Memory.wfFrom_consByte ?_ hl ha
      simp only [Memory.wfFrom, Bool.and_eq_true, decide_eq_true_eq]
      exact ⟨⟨⟨by omega, h'.1.1.2⟩, h'.1.2⟩, h'.2⟩
    · split
      · rename_i heq
        subst heq
        exact Memory.wfFrom_consByte h'.2 hl ha
      · simp only [Memory.wfFrom, Bool.and_eq_true, decide_eq_true_eq]
        exact ⟨⟨⟨h'.1.1.1, h'.1.1.2⟩, h'.1.2⟩, ih h'.2 (by omega)⟩

/-- A write below the memory size keeps the canonical form. -/
theorem Memory.wf_write {m : Memory} {a : Nat} {v : Byte} (h : Memory.wf m = true)
    (ha : a < Config.memorySize) : Memory.wf (Memory.write m a v) = true :=
  Memory.wfFrom_write h (Nat.zero_le a) ha

theorem Memory.wfFrom_load (bytes : Nat → Byte) (n base : Nat) (h : base + n ≤ Config.memorySize) :
    Memory.wfFrom base (Memory.load bytes base n) = true := by
  induction n generalizing base with
  | zero => rfl
  | succ n ih => exact Memory.wfFrom_consByte (ih (base + 1) (by omega)) (Nat.le_refl base) (by omega)

/-- A loaded memory holds its bytes. -/
theorem Memory.read_load (bytes : Nat → Byte) (n base k : Nat) (h : base + n ≤ Config.memorySize)
    (hk : base ≤ k) (hn : k < base + n) : Memory.read (Memory.load bytes base n) k = bytes k := by
  induction n generalizing base with
  | zero => omega
  | succ n ih =>
    have hw := Memory.wfFrom_load bytes n (base + 1) (by omega)
    rw [Memory.load, Memory.read_consByte _ _ _ _ (Memory.read_below hw (by omega))]
    by_cases hb : base = k
    · rw [if_pos hb, hb]
    · rw [if_neg hb, ih (base + 1) (by omega) (by omega) (by omega)]

/-- Reading the state's memory after one byte of it was written. -/
theorem State.readMemory_setByte {s : State} (h : Memory.wf s.memory = true) (a : Nibble) (v : Byte)
    (k : Nibble) : (s.setByte a v).readMemory k = if a = k then v else s.readMemory k := by
  show Memory.read (Memory.write s.memory a.toNat v) k.toNat = _
  rw [Memory.read_write h]
  simp only [BitVec.toNat_inj, State.readMemory]

/-- Writing one byte of the state's memory keeps the canonical form. -/
theorem State.wf_setByte {s : State} (h : Memory.wf s.memory = true) (a : Nibble) (v : Byte) :
    Memory.wf (s.setByte a v).memory = true :=
  Memory.wf_write h a.isLt

/-- The power-on memory holds the bytes it is given. -/
theorem powerOn_readMemory (initMem : Nibble → Byte) (a : Nibble) :
    (powerOn initMem).readMemory a = initMem a := by
  simp only [State.readMemory, powerOn]
  rw [Memory.read_load _ _ _ _ (Nat.le_refl _) (Nat.zero_le _) (by simpa [Config.memorySize] using a.isLt)]
  simp

end Sys2Proof.Machine
end

