-- ==== Sys2Proof/Laws/State.lean ====
section
/-! SUPPORT. One lemma per field per update of the state, true by rfl, so that no proof unfolds a record
update: what each accessor writes and what it leaves. -/

namespace Sys2Proof.Machine

@[simp] theorem State.setA_registerA (s : State) (v : Nibble) : (s.setA v).registerA = v := rfl
@[simp] theorem State.setA_registerB (s : State) (v : Nibble) : (s.setA v).registerB = s.registerB := rfl
@[simp] theorem State.setA_carry (s : State) (v : Nibble) : (s.setA v).carry = s.carry := rfl
@[simp] theorem State.setA_programCounter (s : State) (v : Nibble) : (s.setA v).programCounter = s.programCounter := rfl
@[simp] theorem State.setA_outputPort (s : State) (v : Nibble) : (s.setA v).outputPort = s.outputPort := rfl
@[simp] theorem State.setA_inputPort (s : State) (v : Nibble) : (s.setA v).inputPort = s.inputPort := rfl
@[simp] theorem State.setA_memory (s : State) (v : Nibble) : (s.setA v).memory = s.memory := rfl
@[simp] theorem State.setA_readMemory (s : State) (v : Nibble) (a : Nibble) : (s.setA v).readMemory a = s.readMemory a := rfl

@[simp] theorem State.setB_registerA (s : State) (v : Nibble) : (s.setB v).registerA = s.registerA := rfl
@[simp] theorem State.setB_registerB (s : State) (v : Nibble) : (s.setB v).registerB = v := rfl
@[simp] theorem State.setB_carry (s : State) (v : Nibble) : (s.setB v).carry = s.carry := rfl
@[simp] theorem State.setB_programCounter (s : State) (v : Nibble) : (s.setB v).programCounter = s.programCounter := rfl
@[simp] theorem State.setB_outputPort (s : State) (v : Nibble) : (s.setB v).outputPort = s.outputPort := rfl
@[simp] theorem State.setB_inputPort (s : State) (v : Nibble) : (s.setB v).inputPort = s.inputPort := rfl
@[simp] theorem State.setB_memory (s : State) (v : Nibble) : (s.setB v).memory = s.memory := rfl
@[simp] theorem State.setB_readMemory (s : State) (v : Nibble) (a : Nibble) : (s.setB v).readMemory a = s.readMemory a := rfl

@[simp] theorem State.setCarry_registerA (s : State) (c : Bool) : (s.setCarry c).registerA = s.registerA := rfl
@[simp] theorem State.setCarry_registerB (s : State) (c : Bool) : (s.setCarry c).registerB = s.registerB := rfl
@[simp] theorem State.setCarry_carry (s : State) (c : Bool) : (s.setCarry c).carry = c := rfl
@[simp] theorem State.setCarry_programCounter (s : State) (c : Bool) : (s.setCarry c).programCounter = s.programCounter := rfl
@[simp] theorem State.setCarry_outputPort (s : State) (c : Bool) : (s.setCarry c).outputPort = s.outputPort := rfl
@[simp] theorem State.setCarry_inputPort (s : State) (c : Bool) : (s.setCarry c).inputPort = s.inputPort := rfl
@[simp] theorem State.setCarry_memory (s : State) (c : Bool) : (s.setCarry c).memory = s.memory := rfl
@[simp] theorem State.setCarry_readMemory (s : State) (c : Bool) (a : Nibble) : (s.setCarry c).readMemory a = s.readMemory a := rfl

@[simp] theorem State.setPc_registerA (s : State) (p : Nibble) : (s.setPc p).registerA = s.registerA := rfl
@[simp] theorem State.setPc_registerB (s : State) (p : Nibble) : (s.setPc p).registerB = s.registerB := rfl
@[simp] theorem State.setPc_carry (s : State) (p : Nibble) : (s.setPc p).carry = s.carry := rfl
@[simp] theorem State.setPc_programCounter (s : State) (p : Nibble) : (s.setPc p).programCounter = p := rfl
@[simp] theorem State.setPc_outputPort (s : State) (p : Nibble) : (s.setPc p).outputPort = s.outputPort := rfl
@[simp] theorem State.setPc_inputPort (s : State) (p : Nibble) : (s.setPc p).inputPort = s.inputPort := rfl
@[simp] theorem State.setPc_memory (s : State) (p : Nibble) : (s.setPc p).memory = s.memory := rfl
@[simp] theorem State.setPc_readMemory (s : State) (p : Nibble) (a : Nibble) : (s.setPc p).readMemory a = s.readMemory a := rfl

@[simp] theorem State.setOut_registerA (s : State) (v : Nibble) : (s.setOut v).registerA = s.registerA := rfl
@[simp] theorem State.setOut_registerB (s : State) (v : Nibble) : (s.setOut v).registerB = s.registerB := rfl
@[simp] theorem State.setOut_carry (s : State) (v : Nibble) : (s.setOut v).carry = s.carry := rfl
@[simp] theorem State.setOut_programCounter (s : State) (v : Nibble) : (s.setOut v).programCounter = s.programCounter := rfl
@[simp] theorem State.setOut_outputPort (s : State) (v : Nibble) : (s.setOut v).outputPort = v := rfl
@[simp] theorem State.setOut_inputPort (s : State) (v : Nibble) : (s.setOut v).inputPort = s.inputPort := rfl
@[simp] theorem State.setOut_memory (s : State) (v : Nibble) : (s.setOut v).memory = s.memory := rfl
@[simp] theorem State.setOut_readMemory (s : State) (v : Nibble) (a : Nibble) : (s.setOut v).readMemory a = s.readMemory a := rfl

@[simp] theorem State.setIn_registerA (s : State) (v : Nibble) : (s.setIn v).registerA = s.registerA := rfl
@[simp] theorem State.setIn_registerB (s : State) (v : Nibble) : (s.setIn v).registerB = s.registerB := rfl
@[simp] theorem State.setIn_carry (s : State) (v : Nibble) : (s.setIn v).carry = s.carry := rfl
@[simp] theorem State.setIn_programCounter (s : State) (v : Nibble) : (s.setIn v).programCounter = s.programCounter := rfl
@[simp] theorem State.setIn_outputPort (s : State) (v : Nibble) : (s.setIn v).outputPort = s.outputPort := rfl
@[simp] theorem State.setIn_inputPort (s : State) (v : Nibble) : (s.setIn v).inputPort = v := rfl
@[simp] theorem State.setIn_memory (s : State) (v : Nibble) : (s.setIn v).memory = s.memory := rfl
@[simp] theorem State.setIn_readMemory (s : State) (v : Nibble) (a : Nibble) : (s.setIn v).readMemory a = s.readMemory a := rfl

@[simp] theorem State.setByte_registerA (s : State) (a : Nibble) (v : Byte) : (s.setByte a v).registerA = s.registerA := rfl
@[simp] theorem State.setByte_registerB (s : State) (a : Nibble) (v : Byte) : (s.setByte a v).registerB = s.registerB := rfl
@[simp] theorem State.setByte_carry (s : State) (a : Nibble) (v : Byte) : (s.setByte a v).carry = s.carry := rfl
@[simp] theorem State.setByte_programCounter (s : State) (a : Nibble) (v : Byte) : (s.setByte a v).programCounter = s.programCounter := rfl
@[simp] theorem State.setByte_outputPort (s : State) (a : Nibble) (v : Byte) : (s.setByte a v).outputPort = s.outputPort := rfl
@[simp] theorem State.setByte_inputPort (s : State) (a : Nibble) (v : Byte) : (s.setByte a v).inputPort = s.inputPort := rfl
@[simp] theorem State.setByte_memory (s : State) (a : Nibble) (v : Byte) : (s.setByte a v).memory = Memory.write s.memory a.toNat v := rfl

@[simp] theorem State.advance_registerA (s : State) : s.advance.registerA = s.registerA := rfl
@[simp] theorem State.advance_registerB (s : State) : s.advance.registerB = s.registerB := rfl
@[simp] theorem State.advance_carry (s : State) : s.advance.carry = s.carry := rfl
@[simp] theorem State.advance_programCounter (s : State) : s.advance.programCounter = inc s.programCounter := rfl
@[simp] theorem State.advance_outputPort (s : State) : s.advance.outputPort = s.outputPort := rfl
@[simp] theorem State.advance_inputPort (s : State) : s.advance.inputPort = s.inputPort := rfl
@[simp] theorem State.advance_memory (s : State) : s.advance.memory = s.memory := rfl
@[simp] theorem State.advance_readMemory (s : State) (a : Nibble) : s.advance.readMemory a = s.readMemory a := rfl

/-- Reading a byte depends on the memory field alone. -/
theorem State.readMemory_congr {s t : State} (h : t.memory = s.memory) (a : Nibble) :
    t.readMemory a = s.readMemory a := by
  simp [State.readMemory, h]

end Sys2Proof.Machine
end

