-- ==== Sys2Proof/Laws/HostOps.lean ====
section
/-! SUPPORT. What each host operation does to each field. -/

namespace Sys2Proof.Machine

@[simp] theorem hostReset_registerA (s : State) : (hostReset s).registerA = 0#4 := rfl
@[simp] theorem hostReset_registerB (s : State) : (hostReset s).registerB = 0#4 := rfl
@[simp] theorem hostReset_carry (s : State) : (hostReset s).carry = false := rfl
@[simp] theorem hostReset_programCounter (s : State) : (hostReset s).programCounter = 0#4 := rfl
@[simp] theorem hostReset_outputPort (s : State) : (hostReset s).outputPort = 0#4 := rfl
@[simp] theorem hostReset_inputPort (s : State) : (hostReset s).inputPort = 0#4 := rfl
@[simp] theorem hostReset_memory (s : State) : (hostReset s).memory = s.memory := rfl

/-- The host's write is a write of one byte. -/
theorem hostWriteMemory_eq (index : Nibble) (value : Byte) (s : State) :
    hostWriteMemory index value s = s.setByte index value := rfl

/-- The host's input is a write of the input port. -/
theorem hostSetInput_eq (v : Nibble) (s : State) : hostSetInput v s = s.setIn v := rfl

/-- A run of one more operation goes through that operation's next state. -/
theorem runOps_cons_next {op : HostOp} {s t : State} (h : applyOp op s = .next t) (ops : List HostOp) :
    runOps (op :: ops) s = runOps ops t := by
  simp [runOps, h]

end Sys2Proof.Machine
end

