-- ==== Sys2Proof/Laws/Ops.lean ====
section
/-! SUPPORT. One lemma per shared operation, saying once everything it does to each field; proofs cite these
and never unfold the operations. -/

namespace Sys2Proof.Machine

/-- Adding to `A`: its new value, the carry-out, the advance, and nothing else. -/
theorem addTo_a (imm : Nibble) (s : State) :
    addTo .a imm s = (((s.setA (add s.registerA imm).2).setCarry (add s.registerA imm).1).advance) := rfl

/-- Adding to `B`: its new value, the carry-out, the advance, and nothing else. -/
theorem addTo_b (imm : Nibble) (s : State) :
    addTo .b imm s = (((s.setB (add s.registerB imm).2).setCarry (add s.registerB imm).1).advance) := rfl

/-- Copying to `A`. -/
theorem copyTo_a (src : Source) (s : State) :
    copyTo (.register .a) src s = ((s.setA (s.readSource src)).setCarry false).advance := rfl

/-- Copying to `B`. -/
theorem copyTo_b (src : Source) (s : State) :
    copyTo (.register .b) src s = ((s.setB (s.readSource src)).setCarry false).advance := rfl

/-- Copying to the output port. -/
theorem copyTo_out (src : Source) (s : State) :
    copyTo .outputPort src s = ((s.setOut (s.readSource src)).setCarry false).advance := rfl

/-- A taken jump: the program counter and the flag, and nothing else. -/
theorem jumpTo_eq (target : Nibble) (s : State) : jumpTo target s = (s.setPc target).setCarry false := rfl

@[simp] theorem readSource_immediate (s : State) (imm : Nibble) : s.readSource (.immediate imm) = imm := rfl
@[simp] theorem readSource_a (s : State) : s.readSource (.register .a) = s.registerA := rfl
@[simp] theorem readSource_b (s : State) : s.readSource (.register .b) = s.registerB := rfl
@[simp] theorem readSource_input (s : State) : s.readSource .inputPort = s.inputPort := rfl

@[simp] theorem State.clearCarry_eq (s : State) : s.clearCarry = s.setCarry false := rfl

/-- Under the policy the spec fixes an unassigned opcode only advances the program counter. -/
theorem unassignedUnder_fixed (op : Nibble) (s : State) :
    unassignedUnder Config.unassignedPolicy op s = .next s.advance := rfl

end Sys2Proof.Machine
end

