-- ==== Sys2Proof/Laws/PerInstr.lean ====
section
/-! SUPPORT. Statements made for every instruction, one lemma per constructor.
Family `EncodedFields`: the byte of an instruction has the opcode of its row and its low nibble, and reading
those two fields by the opcode map gives the instruction back. -/

namespace Sys2Proof.Laws.EncodedFields

/-- The encoded byte has the instruction's opcode and low nibble, and the opcode map sends them back to it. -/
def Statement (i : Instr) : Prop :=
  opcodeOf (encode i) = i.opcode ∧ immOf (encode i) = i.lowNibble ∧
    decodeFields i.opcode i.lowNibble = i

/-- The first two clauses hold of every instruction by packing; the third is the opcode map's row. -/
theorem of_row {i : Instr} (h : decodeFields i.opcode i.lowNibble = i) : Statement i :=
  ⟨opcodeOf_packByte _ _, immOf_packByte _ _, h⟩

theorem addAImm (imm : Nibble) : Statement (.addAImm imm) := of_row (by simp [decodeFields, Instr.opcode, Instr.lowNibble])
theorem movAB : Statement .movAB := of_row rfl
theorem inA : Statement .inA := of_row rfl
theorem movAImm (imm : Nibble) : Statement (.movAImm imm) := of_row (by simp [decodeFields, Instr.opcode, Instr.lowNibble])
theorem movBA : Statement .movBA := of_row rfl
theorem addBImm (imm : Nibble) : Statement (.addBImm imm) := of_row (by simp [decodeFields, Instr.opcode, Instr.lowNibble])
theorem inB : Statement .inB := of_row rfl
theorem movBImm (imm : Nibble) : Statement (.movBImm imm) := of_row (by simp [decodeFields, Instr.opcode, Instr.lowNibble])
theorem unassigned8 (imm : Nibble) : Statement (.unassigned8 imm) := of_row (by simp [decodeFields, Instr.opcode, Instr.lowNibble])
theorem outB : Statement .outB := of_row rfl
theorem unassignedA (imm : Nibble) : Statement (.unassignedA imm) := of_row (by simp [decodeFields, Instr.opcode, Instr.lowNibble])
theorem outImm (imm : Nibble) : Statement (.outImm imm) := of_row (by simp [decodeFields, Instr.opcode, Instr.lowNibble])
theorem unassignedC (imm : Nibble) : Statement (.unassignedC imm) := of_row (by simp [decodeFields, Instr.opcode, Instr.lowNibble])
theorem unassignedD (imm : Nibble) : Statement (.unassignedD imm) := of_row (by simp [decodeFields, Instr.opcode, Instr.lowNibble])
theorem jncImm (imm : Nibble) : Statement (.jncImm imm) := of_row (by simp [decodeFields, Instr.opcode, Instr.lowNibble])
theorem jmpImm (imm : Nibble) : Statement (.jmpImm imm) := of_row (by simp [decodeFields, Instr.opcode, Instr.lowNibble])

end Sys2Proof.Laws.EncodedFields
end

