-- ==== Sys2Proof/Laws/Step.lean ====
section
/-! SUPPORT. What one execution can do, said once: the inversion of `exec` that every invariant and frame
proof cites, and how `step` goes through the decoder. -/

namespace Sys2Proof.Machine

/-- Everything an execution can do: it always answers a next state, and that state is the old one with at
most one of `A`, `B` and `OUT` written, then the flag, then the program counter. -/
theorem exec_cases (i : Instr) (s : State) :
    (∃ v c, exec i s = .next ((s.setA v).setCarry c).advance) ∨
    (∃ v c, exec i s = .next ((s.setB v).setCarry c).advance) ∨
    (∃ v, exec i s = .next ((s.setOut v).setCarry false).advance) ∨
    (∃ target, exec i s = .next ((s.setPc target).setCarry false)) ∨
    exec i s = .next s.advance := by
  cases i with
  | addAImm imm => exact .inl ⟨_, _, rfl⟩
  | movAB => exact .inl ⟨_, _, rfl⟩
  | inA => exact .inl ⟨_, _, rfl⟩
  | movAImm imm => exact .inl ⟨_, _, rfl⟩
  | movBA => exact .inr (.inl ⟨_, _, rfl⟩)
  | addBImm imm => exact .inr (.inl ⟨_, _, rfl⟩)
  | inB => exact .inr (.inl ⟨_, _, rfl⟩)
  | movBImm imm => exact .inr (.inl ⟨_, _, rfl⟩)
  | unassigned8 imm => exact .inr (.inr (.inr (.inr rfl)))
  | outB => exact .inr (.inr (.inl ⟨_, rfl⟩))
  | unassignedA imm => exact .inr (.inr (.inr (.inr rfl)))
  | outImm imm => exact .inr (.inr (.inl ⟨_, rfl⟩))
  | unassignedC imm => exact .inr (.inr (.inr (.inr rfl)))
  | unassignedD imm => exact .inr (.inr (.inr (.inr rfl)))
  | jncImm imm =>
    by_cases h : s.carry = false
    · exact .inr (.inr (.inr (.inl ⟨imm, by simp [exec, execJncImm, h, jumpTo_eq]⟩)))
    · exact .inr (.inr (.inr (.inl ⟨inc s.programCounter, by simp [exec, execJncImm, h]; rfl⟩)))
  | jmpImm imm => exact .inr (.inr (.inr (.inl ⟨_, rfl⟩)))

/-- A step runs the instruction the fetched byte decodes to. -/
theorem step_eq (s : State) : step s = exec (decode s.fetch) s := rfl

/-- A step on a byte given by its fields. -/
theorem step_of_fetch {s : State} {op imm : Nibble} (h : s.fetch = packByte op imm) :
    step s = exec (decodeFields op imm) s := by
  rw [step_eq, h, decode_packByte]

/-- A run of one more step goes through that step's next state, in any machine of the host's interface. -/
theorem run_succ_of_step (M : Host.Core) {s t : M.State} (h : M.step s = .next t) (n : Nat) :
    M.run (n + 1) s = M.run n t := by
  simp [Host.Core.run, h]

end Sys2Proof.Machine
end

