-- ==== Sys2Proof/Tests/Slice0.lean ====
section
/-! SUPPORT. The model's own tests. Expected results come from the spec: the encodings of rules R53 and R60 and
the vectors of 95_test_vectors.md, by their names there. Then a witness for the hypotheses of every statement
that has some. -/

namespace Sys2Proof.Tests

open Sys2Proof.Machine

/-- A state given by its fields and the one byte at its program counter, all as numbers. -/
def small (a b : Nat) (cf : Bool) (pc out inp byte : Nat) : State where
  registerA := BitVec.ofNat 4 a
  registerB := BitVec.ofNat 4 b
  carry := cf
  programCounter := BitVec.ofNat 4 pc
  outputPort := BitVec.ofNat 4 out
  inputPort := BitVec.ofNat 4 inp
  memory := Memory.write [] pc (BitVec.ofNat 8 byte)

/-- Whether a result is the given next state. -/
def answers (r : Result) (t : State) : Bool :=
  match r with
  | .next u => decide (u = t)
  | .fault _ => false
  | .refused _ => false

theorem next_of_answers {r : Result} {t : State} (h : answers r t = true) : r = .next t := by
  cases r with
  | next u => simp [answers] at h; rw [h]
  | fault _ => simp [answers] at h
  | refused _ => simp [answers] at h

/-- Whether one step from the first state gives the second one's fields, with the first one's memory. -/
def stepsTo (s : State) (a b : Nat) (cf : Bool) (pc out : Nat) : Bool :=
  answers (step s) { s with registerA := BitVec.ofNat 4 a, registerB := BitVec.ofNat 4 b, carry := cf, programCounter := BitVec.ofNat 4 pc, outputPort := BitVec.ofNat 4 out }

/-! Well-formedness: each check refuses an ill-formed line (rule R58). -/

theorem test_line_accepted : (AsmLine.mk .movA (some 15)).wellFormed = true := by decide
theorem test_line_without_operand_accepted : (AsmLine.mk .outB none).wellFormed = true := by decide
theorem test_immediate_too_large_refused : (AsmLine.mk .addA (some 16)).wellFormed = false := by decide
theorem test_immediate_missing_refused : (AsmLine.mk .jnc none).wellFormed = false := by decide
theorem test_immediate_superfluous_refused : (AsmLine.mk .movAB (some 0)).wellFormed = false := by decide
theorem test_assemble_refuses : assemble (AsmLine.mk .jmp (some 16)) = none := by decide

/-! Decoding: every constructor from a word written out by the opcode map (rule R53); 0x31, 0x01, 0xFA and 0xE5
are the source's own examples (rule R60). -/

theorem test_decode_add_a : decode 0b00000001#8 = .addAImm 1#4 := by decide
theorem test_decode_mov_a_b : decode 0b00010000#8 = .movAB := by decide
theorem test_decode_mov_a_b_low_nibble_ignored : decode 0b00010101#8 = .movAB := by decide
theorem test_decode_in_a : decode 0b00101010#8 = .inA := by decide
theorem test_decode_mov_a : decode 0b00110001#8 = .movAImm 1#4 := by decide
theorem test_decode_mov_b_a : decode 0b01001111#8 = .movBA := by decide
theorem test_decode_add_b : decode 0b01010111#8 = .addBImm 7#4 := by decide
theorem test_decode_in_b : decode 0b01100000#8 = .inB := by decide
theorem test_decode_mov_b : decode 0b01111100#8 = .movBImm 12#4 := by decide
theorem test_decode_unassigned_8 : decode 0b10001111#8 = .unassigned8 15#4 := by decide
theorem test_decode_out_b : decode 0b10011100#8 = .outB := by decide
theorem test_decode_unassigned_a : decode 0b10100000#8 = .unassignedA 0#4 := by decide
theorem test_decode_out_imm : decode 0b10111000#8 = .outImm 8#4 := by decide
theorem test_decode_unassigned_c : decode 0b11000101#8 = .unassignedC 5#4 := by decide
theorem test_decode_unassigned_d : decode 0b11010000#8 = .unassignedD 0#4 := by decide
theorem test_decode_jnc : decode 0b11100101#8 = .jncImm 5#4 := by decide
theorem test_decode_jmp : decode 0b11111010#8 = .jmpImm 10#4 := by decide
theorem test_table_word : decodeTableWord 8 0xFA = some (.jmpImm 10#4) := by decide
theorem test_table_word_too_wide : decodeTableWord 16 0xFA = none := by decide

/-! One step, by the vectors of 95_test_vectors.md sections 1 and 2. -/

theorem test_v_add_2 : stepsTo (small 15 0 false 3 0 0 0x01) 0 0 true 4 0 = true := by decide
theorem test_v_add_7 : stepsTo (small 0 0 true 0 0 0 0x0F) 15 0 false 1 0 = true := by decide
theorem test_v_add_11 : stepsTo (small 0 9 false 15 0 0 0x57) 0 0 true 0 0 = true := by decide
theorem test_v_add_13 : stepsTo (small 0 4 true 0 0 0 0x50) 0 4 false 1 0 = true := by decide
theorem test_v_mov_2 : stepsTo (small 9 0 true 0 0 0 0x30) 0 0 false 1 0 = true := by decide
theorem test_v_mov_4 : stepsTo (small 0 3 true 7 0 0 0x7C) 0 12 false 8 0 = true := by decide
theorem test_v_mov_5 : stepsTo (small 2 9 true 4 0 0 0x10) 9 9 false 5 0 = true := by decide
theorem test_v_mov_6 : stepsTo (small 2 9 true 4 0 0 0x15) 9 9 false 5 0 = true := by decide
theorem test_v_mov_8 : stepsTo (small 12 5 true 15 0 0 0x4F) 12 12 false 0 0 = true := by decide
theorem test_v_in_4 : stepsTo (small 0 0 false 0 0 3 0x2A) 3 0 false 1 0 = true := by decide
theorem test_v_in_5 : stepsTo (small 4 8 true 0 0 11 0x60) 4 11 false 1 0 = true := by decide
theorem test_v_out_3 : stepsTo (small 0 0 true 0 7 0 0xB0) 0 0 false 1 0 = true := by decide
theorem test_v_out_4 : stepsTo (small 0 2 false 0 0 0 0x9C) 0 2 false 1 2 = true := by decide
theorem test_v_jmp_2 : stepsTo (small 0 0 true 4 0 0 0xF4) 0 0 false 4 0 = true := by decide
theorem test_v_jmp_4 : stepsTo (small 3 4 false 14 5 6 0xFF) 3 4 false 15 5 = true := by decide
theorem test_v_jnc_5 : stepsTo (small 0 0 true 15 0 0 0xEF) 0 0 false 0 0 = true := by decide
theorem test_v_jnc_6 : stepsTo (small 1 2 false 9 3 4 0xE9) 1 2 false 9 3 = true := by decide
theorem test_v_un_1 : stepsTo (small 3 4 true 6 2 0 0x8F) 3 4 true 7 2 = true := by decide
theorem test_v_un_2 : stepsTo (small 0 0 false 15 0 0 0xA0) 0 0 false 0 0 = true := by decide
theorem test_v_un_3 : stepsTo (small 0 0 true 1 0 0 0xC5) 0 0 true 2 0 = true := by decide
theorem test_v_un_4 : stepsTo (small 15 0 false 0 0 7 0xD0) 15 0 false 1 0 = true := by decide

/-! Host operations, by the vectors of 95_test_vectors.md section 2.8, and the first step from reset. -/

/-- The memory 51 90 F0 00 … of the host vectors. -/
def hostMemory : Memory := [(0, 0x51#8), (1, 0x90#8), (2, 0xF0#8)]

theorem test_v_rst_1 : answers (applyOp .reset { small 3 12 true 9 12 5 0 with memory := hostMemory })
    { State.reset with memory := hostMemory } = true := by decide
theorem test_v_wm_1 : Memory.write hostMemory 4 0x3A#8 = [(0, 0x51#8), (1, 0x90#8), (2, 0xF0#8), (4, 0x3A#8)] := by decide
theorem test_v_wm_3 : Memory.write hostMemory 3 0x8A#8 = [(0, 0x51#8), (1, 0x90#8), (2, 0xF0#8), (3, 0x8A#8)] := by decide
theorem test_write_of_unlisted_byte_removes : Memory.write hostMemory 1 0x00#8 = [(0, 0x51#8), (2, 0xF0#8)] := by decide
theorem test_v_wm_2 : answers (runOps [.writeMemory 4#4 0x3A#8, .step] { small 1 0 false 4 0 0 0 with memory := hostMemory })
    { small 10 0 false 5 0 0 0 with memory := [(0, 0x51#8), (1, 0x90#8), (2, 0xF0#8), (4, 0x3A#8)] } = true := by decide
theorem test_v_si_2 : answers (runOps [.setInput 9#4, .step] (small 0 0 false 0 0 0 0x20))
    { small 9 0 false 1 0 9 0 with memory := [(0, 0x20#8)] } = true := by decide
theorem test_out_of_range_index : writeMemoryAt 16 0x31#8 State.reset = .refused (.indexOutOfRange 16) := by rfl
theorem test_pins_reset_wins : (Pins.mk true true 3#4 0x31#8 true 9#4).operation = .reset := by decide
theorem test_first_step_from_reset : answers (step (State.reset.withFetchWord 8 0x31))
    { small 1 0 false 1 0 0 0 with memory := [(0, 0x31#8)] } = true := by decide
theorem test_adder_corners : add 15#4 15#4 = (true, 14#4) ∧ add 9#4 7#4 = (true, 0#4) ∧ add 7#4 8#4 = (false, 15#4) := by decide
theorem test_policy_clear_carry : answers (unassignedUnder .nopClearCarry 8#4 (small 3 4 true 6 2 0 0x8F))
    { small 3 4 false 7 2 0 0 with memory := [(6, 0x8F#8)] } = true := by decide

/-! Witnesses: a concrete state and operands that meet all the hypotheses of each statement together. A statement
with several clauses has one for each clause. -/

theorem witness_PatchedByteSurvivesReset : (1#4 : Nibble) ≠ 0#4 := by decide
theorem witness_InstructionByteFields : 3 < 4 ∧ (opcodeOf 0x80#8).getLsbD 3 = true := by decide
theorem witness_LowNibbleOfOperandlessOpcodesIsIgnored :
    ignoresLowNibble 0b0001#4 = true ∧ decode (packByte 0b0001#4 15#4) = .movAB := by decide
theorem witness_AdderLaws : 1 ≤ (15#4 : Nibble).toNat ∧ 1 ≤ (1#4 : Nibble).toNat := by decide
theorem witness_JncJumpsOnClearCarry : (small 0 0 false 0 0 0 0).carry = false ∧ (small 0 0 true 15 0 0 0).carry = true := by decide
theorem witness_UnassignedOpcodesOnlyAdvance : decode 0x8F#8 = .unassigned8 15#4 ∧ decode 0xA0#8 = .unassignedA 0#4 ∧
    decode 0xC5#8 = .unassignedC 5#4 ∧ decode 0xDF#8 = .unassignedD 15#4 := by decide
theorem witness_StepRunsTheFetchedInstruction :
    (small 0 0 false 15 0 0 0xFF).readMemory 15#4 = 0xFF#8 ∧ 0xFF#8 = encode (.jmpImm 15#4) := by decide
theorem witness_PlacedWordIsTheNextInstruction :
    CanonicalMemory State.reset ∧ decodeTableWord 8 0xE5 = some (.jncImm 5#4) := by
  unfold CanonicalMemory; decide
theorem witness_EveryAssignedInstructionIsTotal : unassignedOpcode (Instr.jncImm 0#4).opcode = false := by decide
theorem witness_StepNeverWritesInputPortOrMemory :
    step (small 0 0 false 0 0 6 0x20) = .next { small 6 0 false 1 0 6 0 with memory := [(0, 0x20#8)] } :=
  next_of_answers (by decide)
theorem witness_EachBehaviourWritesAtMostOneDestination :
    exec (.outImm 8#4) (small 0 0 true 3 0 0 0) = .next (small 0 0 false 4 8 0 0) ∧
      unassignedOpcode (Instr.outImm 8#4).opcode = false := ⟨next_of_answers (by decide), by decide⟩
theorem witness_FrameOfEveryInstruction_a :
    exec (.addAImm 1#4) (small 15 0 false 15 0 0 0) = .next (small 0 0 true 0 0 0 0) := next_of_answers (by decide)
theorem witness_FrameOfEveryInstruction_b :
    exec .inB (small 0 0 true 15 0 15 0) = .next (small 0 15 false 0 0 15 0) := next_of_answers (by decide)
theorem witness_FrameOfEveryInstruction_out :
    exec .outB (small 0 5 false 1 8 0 0) = .next (small 0 5 false 2 5 0 0) := next_of_answers (by decide)
theorem witness_FrameOfEveryInstruction_jump :
    exec (.jncImm 5#4) (small 0 0 true 15 0 0 0) = .next (small 0 0 false 0 0 0 0) := next_of_answers (by decide)
theorem witness_FrameOfEveryInstruction_unassigned :
    exec (.unassignedD 0#4) (small 15 0 true 0 0 7 0) = .next (small 15 0 true 1 0 7 0) := next_of_answers (by decide)
theorem witness_NonJumpStepsAdvanceByOne :
    FetchesAssigned (small 0 0 true 15 0 0 0x57) ∧ jumpOpcode (opcodeOf (small 0 0 true 15 0 0 0x57).fetch) = false ∧
    opcodeOf (small 0 0 true 15 0 0 0xE5).fetch = 0b1110#4 ∧ (small 0 0 true 15 0 0 0xE5).carry = true := by
  unfold FetchesAssigned; decide
theorem witness_JumpsSkipTheIncrement :
    (small 0 0 true 4 0 0 0xF4).fetch = packByte 0b1111#4 4#4 ∧
    ((small 0 0 false 0 0 0 0xE0).fetch = packByte 0b1110#4 0#4 ∧ (small 0 0 false 0 0 0 0xE0).carry = false) ∧
    ((small 0 0 true 15 0 0 0xEF).fetch = packByte 0b1110#4 15#4 ∧ (small 0 0 true 15 0 0 0xEF).carry = true) := by decide
theorem witness_CarryAfterEveryAssignedOpcode :
    step (small 9 0 false 0 0 0 0x07) = .next { small 0 0 true 1 0 0 0 with memory := [(0, 0x07#8)] } ∧
    FetchesAssigned (small 9 0 false 0 0 0 0x07) ∧
    unassignedOpcode (Instr.addAImm 7#4).opcode = false ∧ (Instr.addAImm 7#4).opcode ≠ 0b1110#4 := by
  refine ⟨next_of_answers (by decide), ?_⟩
  unfold FetchesAssigned
  decide

/-- ADD A,1 at 0 then JNC 5 at 1, as the instruction-memory bytes 01 E5. -/
def addThenJnc (a : Nat) : State := { small a 0 false 0 0 0 0 with memory := [(0, 0x01#8), (1, 0xE5#8)] }

/-- ADD B,15 at 0 then JNC 5 at 1. -/
def addBThenJnc : State := { small 0 1 false 0 0 0 0 with memory := [(0, 0x5F#8), (1, 0xE5#8)] }

/-- MOV B,0 at 0 then JNC 5 at 1, with the carry set. -/
def movThenJnc : State := { small 0 0 true 0 0 0 0 with memory := [(0, 0x70#8), (1, 0xE5#8)] }

theorem witness_CarryLivesForOneInstruction_add_a :
    step (addThenJnc 15) = .next { addThenJnc 0 with carry := true, programCounter := 1#4 } ∧
    FetchesAssigned (addThenJnc 15) ∧ opcodeOf (addThenJnc 15).fetch = 0b0000#4 ∧
    opcodeOf { addThenJnc 0 with carry := true, programCounter := 1#4 }.fetch = 0b1110#4 := by
  refine ⟨next_of_answers (by decide), ?_⟩
  unfold FetchesAssigned
  decide
theorem witness_CarryLivesForOneInstruction_add_b :
    step addBThenJnc = .next { addBThenJnc with registerB := 0#4, carry := true, programCounter := 1#4 } ∧
    FetchesAssigned addBThenJnc ∧ opcodeOf addBThenJnc.fetch = 0b0101#4 ∧
    opcodeOf { addBThenJnc with registerB := 0#4, carry := true, programCounter := 1#4 }.fetch = 0b1110#4 := by
  refine ⟨next_of_answers (by decide), ?_⟩
  unfold FetchesAssigned
  decide
theorem witness_CarryLivesForOneInstruction_other :
    step movThenJnc = .next { movThenJnc with carry := false, programCounter := 1#4 } ∧
    FetchesAssigned movThenJnc ∧ opcodeOf movThenJnc.fetch ≠ 0b0000#4 ∧ opcodeOf movThenJnc.fetch ≠ 0b0101#4 ∧
    opcodeOf { movThenJnc with carry := false, programCounter := 1#4 }.fetch = 0b1110#4 := by
  refine ⟨next_of_answers (by decide), ?_⟩
  unfold FetchesAssigned
  decide
theorem witness_WriteMemoryReplacesOneByte :
    CanonicalMemory { State.reset with memory := hostMemory } ∧ (15#4 : Nibble) ≠ 0#4 := by
  unfold CanonicalMemory; decide
theorem witness_WrittenByteIsFetchedThere :
    CanonicalMemory State.reset ∧
    Host.Core.run Sys2Proof.core 1 (hostWriteMemory 1#4 0x3A#8 State.reset) =
      .next { small 0 0 false 1 0 0 0 with memory := [(1, 0x3A#8)] } ∧
    (small 0 0 false 1 0 0 0).programCounter = 1#4 := by
  refine ⟨by unfold CanonicalMemory; decide, ?_, by decide⟩
  have h : step (hostWriteMemory 1#4 0x3A#8 State.reset) =
      .next { small 0 0 false 1 0 0 0 with memory := [(1, 0x3A#8)] } := next_of_answers (by decide)
  exact run_succ_of_step Sys2Proof.core (s := hostWriteMemory 1#4 0x3A#8 State.reset)
    (t := { small 0 0 false 1 0 0 0 with memory := [(1, 0x3A#8)] }) h 0
theorem witness_MemoryChangesOnlyByWriteMemory :
    CanonicalMemory State.reset ∧ (∀ value : Byte, HostOp.writeMemory 3#4 value ∉ [HostOp.writeMemory 4#4 0x3A#8, .reset]) ∧
    runOps [.writeMemory 4#4 0x3A#8, .reset] State.reset = .next { State.reset with memory := [(4, 0x3A#8)] } :=
  ⟨by unfold CanonicalMemory; decide, by simp, next_of_answers (by decide)⟩
theorem witness_InputStaysZeroWithoutSetInput :
    NeverSetsInput [.step, .reset] ∧ State.reset.inputPort = 0#4 ∧
    runOps [.step, .reset] State.reset = .next State.reset :=
  ⟨by simp [NeverSetsInput], rfl, next_of_answers (by decide)⟩
theorem witness_OutputPortKeepsItsValue :
    step (small 0 5 false 1 8 0 0x90) = .next { small 0 5 false 2 5 0 0 with memory := [(1, 0x90#8)] } ∧
    step (small 0 0 false 3 0 0 0xB8) = .next { small 0 0 false 4 8 0 0 with memory := [(3, 0xB8#8)] } ∧
    step (small 0 0 false 3 9 0 0x31) = .next { small 1 0 false 4 9 0 0 with memory := [(3, 0x31#8)] } :=
  ⟨next_of_answers (by decide), next_of_answers (by decide), next_of_answers (by decide)⟩
theorem witness_OutputPortIsNeverRead :
    runOps [.step, .setInput 9#4] State.reset = .next (small 0 0 false 1 0 9 0) := next_of_answers (by decide)
theorem witness_SnapshotShowsTheWholeState : CanonicalMemory State.reset ∧ snapshot State.reset = snapshot State.reset := by
  unfold CanonicalMemory; decide
theorem witness_OutOfRangeIndexIsRefused : 16 ≤ 16 ∧ 15 < 16 := by decide
theorem witness_ClockEdgeFollowsPinPriority :
    (Pins.mk true true 0#4 0x00#8 true 0#4).rst = true ∧ (Pins.mk false true 0#4 0x00#8 true 0#4).memWe = true ∧
    (Pins.mk false false 0#4 0x00#8 true 0#4).inWe = true ∧ (Pins.mk false false 0#4 0x00#8 false 0#4).inWe = false := by decide
theorem witness_CanonicalMemoriesThatReadAlikeAreEqual :
    Memory.wf hostMemory = true ∧ Memory.wf (Memory.write (Memory.write hostMemory 9 0x07#8) 9 0x00#8) = true ∧
    ∀ a : Nibble, Memory.read hostMemory a.toNat = Memory.read (Memory.write (Memory.write hostMemory 9 0x07#8) 9 0x00#8) a.toNat := by
  decide
theorem witness_EveryPowerOnStateMeetsTheInvariant : CanonicalMemory { State.reset with memory := hostMemory } := by
  unfold CanonicalMemory; decide
theorem witness_EveryStepKeepsTheInvariant :
    CanonicalMemory (small 2 9 true 4 0 0 0x15) ∧
    step (small 2 9 true 4 0 0 0x15) = .next { small 9 9 false 5 0 0 0 with memory := [(4, 0x15#8)] } :=
  ⟨by unfold CanonicalMemory; decide, next_of_answers (by decide)⟩
theorem witness_EveryHostRunKeepsTheInvariant :
    CanonicalMemory State.reset ∧ runOps [.writeMemory 15#4 0xFF#8, .step] State.reset =
      .next { small 0 0 false 1 0 0 0 with memory := [(15, 0xFF#8)] } :=
  ⟨by unfold CanonicalMemory; decide, next_of_answers (by decide)⟩
theorem witness_EveryHostRunRefinesTheSpecsMachine : CanonicalMemory (small 15 0 true 15 3 4 0xE5) := by
  unfold CanonicalMemory; decide
theorem witness_JumpToItselfHoldsTheMachine :
    (small 0 0 true 4 0 0 0xF4).readMemory (small 0 0 true 4 0 0 0xF4).programCounter = packByte 0b1111#4 4#4 := by decide
theorem witness_JumpTakesEffectAtTheNextFetch :
    (small 0 0 true 0 0 0 0xFA).fetch = packByte 0b1111#4 10#4 ∧
    (small 0 0 false 7 0 0 0xE5).fetch = packByte 0b1110#4 5#4 ∧ (small 0 0 false 7 0 0 0xE5).carry = false := by decide
theorem witness_NoAssignedInstructionIsAPureNop :
    unassignedOpcode (Instr.addAImm 0#4).opcode = false ∧ (small 5 0 true 2 0 0 0).carry = true ∧
    exec (.addAImm 0#4) (small 5 0 true 2 0 0 0) = .next (small 5 0 false 3 0 0 0) :=
  ⟨by decide, by decide, next_of_answers (by decide)⟩
theorem witness_UnassignedPolicyDoesNotMatterWithoutUnassignedOpcodes : AssignedFor 1 (small 0 0 false 0 0 0 0x31) :=
  ⟨by unfold FetchesAssigned; decide, fun _ _ => trivial⟩
theorem witness_AssemblerEncodesWhatItSpells : 16 ≤ 16 ∧ (AsmLine.mk .jmp (some 15)).wellFormed = true ∧
    (AsmLine.mk .jmp none).wellFormed = false := by decide

end Sys2Proof.Tests
end

/-! The frame of one step: what no instruction writes (rule R20). -/

namespace Sys2Proof.Machine

/-- No instruction writes the input port or memory. -/
theorem exec_inputPort_memory {i : Instr} {s t : State} (h : exec i s = .next t) :
    t.inputPort = s.inputPort ∧ t.memory = s.memory := by
  obtain ⟨v, c, he⟩ | ⟨v, c, he⟩ | ⟨v, he⟩ | ⟨target, he⟩ | he := exec_cases i s <;>
    (rw [he] at h; cases h; exact ⟨rfl, rfl⟩)

/-- Settles O31: the step is one execution, and no execution writes the two fields. -/
theorem stepNeverWritesInputPortOrMemory : Obligations.StepNeverWritesInputPortOrMemory := by
  intro s t h
  obtain ⟨hin, hmem⟩ := exec_inputPort_memory h
  exact ⟨hin, hmem, State.readMemory_congr hmem⟩

end Sys2Proof.Machine

/-! What decoding keeps of the two fields of the byte (rules R51, R54). -/

namespace Sys2Proof

/-- The decoded instruction has the opcode of the byte. -/
theorem decode_opcode (ir : Byte) : (decode ir).opcode = opcodeOf ir :=
  decodeFields_opcode _ _

/-- Decoding drops the low nibble exactly where the opcode ignores it. -/
theorem decodeFields_lowNibble (op imm : Nibble) :
    (decodeFields op imm).lowNibble = if ignoresLowNibble op then 0#4 else imm := by
  revert op imm; decide

/-- Where the opcode does not ignore it, the decoded instruction keeps the immediate of the byte. -/
theorem decode_lowNibble {ir : Byte} (h : ignoresLowNibble (opcodeOf ir) = false) :
    (decode ir).lowNibble = immOf ir := by
  rw [decode, decodeFields_lowNibble, h, if_neg Bool.false_ne_true]

end Sys2Proof

/-! The carry flag (rule R14): what an assigned instruction leaves in it, and that JNC alone reads it. -/

namespace Sys2Proof.Machine

/-- The flag an assigned opcode leaves: the carry-out of the sum for the two ADD opcodes, clear for every
other one (`exec_carry` and `step_carry` tie it to the machine). -/
def carryAfter (op imm : Nibble) (s : State) : Bool :=
  if op = 0b0000#4 then decide (s.registerA.toNat + imm.toNat ≥ 16)
  else if op = 0b0101#4 then decide (s.registerB.toNat + imm.toNat ≥ 16)
  else false

/-- An opcode that is not an ADD clears the flag. -/
theorem carryAfter_of_not_add {op : Nibble} (hA : op ≠ 0b0000#4) (hB : op ≠ 0b0101#4) (imm : Nibble)
    (s : State) : carryAfter op imm s = false := by
  rw [carryAfter, if_neg hA, if_neg hB]

/-- The flag after an assigned instruction, by its opcode and its low nibble. -/
theorem exec_carry {i : Instr} {s t : State} (ha : unassignedOpcode i.opcode = false)
    (h : exec i s = .next t) : t.carry = carryAfter i.opcode i.lowNibble s := by
  cases i with
  | unassigned8 | unassignedA | unassignedC | unassignedD => cases ha
  | jncImm imm =>
    rw [exec, execJncImm] at h
    split at h <;> (cases h; rfl)
  | _ => cases h; rfl

/-- An assigned instruction other than JNC does the same whatever the flag was. -/
theorem exec_setCarry {i : Instr} (ha : unassignedOpcode i.opcode = false) (hj : i.opcode ≠ 0b1110#4)
    (s : State) (c : Bool) : exec i (s.setCarry c) = exec i s := by
  cases i with
  | unassigned8 | unassignedA | unassignedC | unassignedD => cases ha
  | jncImm => exact absurd rfl hj
  | _ => rfl

/-- The flag after a step, in the fields of the fetched byte. -/
theorem step_carry {s t : State} (ha : FetchesAssigned s) (h : step s = .next t) :
    t.carry = carryAfter (opcodeOf s.fetch) (immOf s.fetch) s := by
  rw [exec_carry (by rwa [decode_opcode]) h, decode_opcode]
  by_cases hA : opcodeOf s.fetch = 0b0000#4
  · rw [decode_lowNibble (by rw [hA]; rfl)]
  · by_cases hB : opcodeOf s.fetch = 0b0101#4
    · rw [decode_lowNibble (by rw [hB]; rfl)]
    · rw [carryAfter_of_not_add hA hB, carryAfter_of_not_add hA hB]

/-- Settles O36: the flag after a step by the opcode, its only reader, and the advance and reset. -/
theorem carryAfterEveryAssignedOpcode : Obligations.CarryAfterEveryAssignedOpcode :=
  ⟨fun _ _ h ha => step_carry ha h, fun _ s c ha hj => exec_setCarry ha hj s c,
    fun s => ⟨s.advance_carry, hostReset_carry s⟩⟩

end Sys2Proof.Machine

/-! Canonical memory is determined by what it reads, so the snapshot shows the whole state (rule R22). -/

namespace Sys2Proof.Machine

/-- The canonical form of a list with a first entry. -/
theorem Memory.wfFrom_cons {lo k : Nat} {v : Byte} {rest : Memory} :
    Memory.wfFrom lo ((k, v) :: rest) = true ↔
      lo ≤ k ∧ k < Config.memorySize ∧ v ≠ Config.unlistedByte ∧ Memory.wfFrom (k + 1) rest = true := by
  simp [Memory.wfFrom, and_assoc]

/-- Reading the address of the first entry. -/
theorem Memory.read_cons_self (k : Nat) (v : Byte) (rest : Memory) :
    Memory.read ((k, v) :: rest) k = v := if_pos rfl

/-- Reading any address but that of the first entry. -/
theorem Memory.read_cons_of_ne {k a : Nat} (h : k ≠ a) (v : Byte) (rest : Memory) :
    Memory.read ((k, v) :: rest) a = Memory.read rest a := if_neg h

/-- A canonical list lists nothing below its start. -/
theorem Memory.le_of_read_ne {m : Memory} {lo a : Nat} (h : Memory.wfFrom lo m = true)
    (ha : Memory.read m a ≠ Config.unlistedByte) : lo ≤ a :=
  Nat.le_of_not_lt fun hlt => ha (Memory.read_below h hlt)

/-- Two canonical lists that read alike are equal: each first address is listed in the other list, so
neither is below the other. -/
theorem Memory.eq_of_read_eq_from {m m' : Memory} {lo : Nat} (h : Memory.wfFrom lo m = true)
    (h' : Memory.wfFrom lo m' = true) (hr : ∀ a, Memory.read m a = Memory.read m' a) : m = m' := by
  induction m generalizing lo m' with
  | nil =>
    cases m' with
    | nil => rfl
    | cons e' rest' =>
      obtain ⟨j, w⟩ := e'
      obtain ⟨-, -, hw, -⟩ := Memory.wfFrom_cons.mp h'
      have hread : w = Config.unlistedByte := by rw [← Memory.read_cons_self j w rest', ← hr j, Memory.read]
      exact absurd hread hw
  | cons e rest ih =>
    obtain ⟨k, v⟩ := e
    obtain ⟨-, hk, hv, hrest⟩ := Memory.wfFrom_cons.mp h
    have hreadk := Memory.read_cons_self k v rest
    cases m' with
    | nil => exact absurd (hreadk.symm.trans (hr k)) hv
    | cons e' rest' =>
      obtain ⟨j, w⟩ := e'
      obtain ⟨-, hj, hw, hrest'⟩ := Memory.wfFrom_cons.mp h'
      have hreadj := Memory.read_cons_self j w rest'
      have hjk : j ≤ k := Memory.le_of_read_ne (Memory.wfFrom_cons.mpr ⟨Nat.le_refl j, hj, hw, hrest'⟩)
        (by rwa [← hr k, hreadk])
      have hkj : k ≤ j := Memory.le_of_read_ne (Memory.wfFrom_cons.mpr ⟨Nat.le_refl k, hk, hv, hrest⟩)
        (by rwa [hr j, hreadj])
      obtain rfl := Nat.le_antisymm hkj hjk
      have hvw : v = w := by rw [← hreadk, hr k, hreadj]
      have htail : ∀ a, Memory.read rest a = Memory.read rest' a := by
        intro a
        by_cases ha : k = a
        · subst ha
          rw [Memory.read_below hrest (Nat.lt_succ_self k), Memory.read_below hrest' (Nat.lt_succ_self k)]
        · rw [← Memory.read_cons_of_ne ha v rest, hr a, Memory.read_cons_of_ne ha]
      rw [hvw, ih hrest hrest' htail]

/-- Canonical memories that read alike at the sixteen addresses are equal: no other address is listed. -/
theorem Memory.eq_of_read_eq {m m' : Memory} (h : Memory.wf m = true) (h' : Memory.wf m' = true)
    (hr : ∀ a : Nibble, Memory.read m a.toNat = Memory.read m' a.toNat) : m = m' := by
  refine Memory.eq_of_read_eq_from h h' fun a => ?_
  by_cases ha : a < Config.memorySize
  · simpa [Nat.mod_eq_of_lt (show a < 16 from ha)] using hr (BitVec.ofNat 4 a)
  · rw [Memory.read_above h (Nat.le_of_not_lt ha), Memory.read_above h' (Nat.le_of_not_lt ha)]

/-- The snapshot holds one byte per address. -/
theorem snapshot_memory_length (s : State) : (snapshot s).memory.length = 16 := by
  simp [snapshot, Config.memorySize]

/-- Entry `a` of the snapshot's bytes is the byte at address `a`. -/
theorem snapshot_memory_getElem? (s : State) (a : Nibble) :
    (snapshot s).memory[a.toNat]? = some (s.readMemory a) := by
  have ha : a.toNat < Config.memorySize := a.isLt
  simp [snapshot, State.readMemory, ha]

/-- States with canonical memory and equal snapshots are equal. -/
theorem eq_of_snapshot_eq {s t : State} (hs : CanonicalMemory s) (ht : CanonicalMemory t)
    (h : snapshot s = snapshot t) : s = t := by
  have hmem : s.memory = t.memory := Memory.eq_of_read_eq hs ht fun a =>
    Option.some.inj (by
      rw [← State.readMemory, ← State.readMemory, ← snapshot_memory_getElem?, h, snapshot_memory_getElem?])
  cases s
  cases t
  simp only [snapshot, Snapshot.mk.injEq] at h
  obtain ⟨rfl, rfl, rfl, rfl, rfl, rfl, -⟩ := h
  cases hmem
  rfl

/-- Settles O45: the snapshot copies every field, and canonical memory is determined by its sixteen bytes. -/
theorem snapshotShowsTheWholeState : Obligations.SnapshotShowsTheWholeState :=
  ⟨fun s => ⟨rfl, rfl, rfl, rfl, rfl, rfl, snapshot_memory_length s, snapshot_memory_getElem? s⟩,
    fun _ _ => eq_of_snapshot_eq⟩

end Sys2Proof.Machine

/-! Runs of `step`: what every step keeps, every run keeps. Memory is one such thing, so a byte the host
wrote is the byte fetched later at its address (rule R43). -/

namespace Sys2Proof.Machine

/-- A run of one more step that answers a next state goes through a next state of its first step, in any
machine of the host's interface. -/
theorem step_next_of_run_succ (M : Host.Core) {n : Nat} {s u : M.State} (h : M.run (n + 1) s = .next u) :
    ∃ t, M.step s = .next t ∧ M.run n t = .next u := by
  rw [Host.Core.run] at h
  split at h
  case h_1 t hstep => exact ⟨t, hstep, h⟩
  all_goals cases h

/-- A predicate that every step keeps is kept by every run, in any machine of the host's interface. -/
theorem run_preserves (M : Host.Core) {P : M.State → Prop}
    (hP : ∀ s t, M.step s = .next t → P s → P t) {n : Nat} {s u : M.State}
    (h : M.run n s = .next u) (hs : P s) : P u := by
  induction n generalizing s with
  | zero => cases h; exact hs
  | succ n ih =>
    obtain ⟨t, hstep, hrun⟩ := step_next_of_run_succ M h
    exact ih hrun (hP s t hstep hs)

/-- No number of steps writes memory. -/
theorem run_memory {n : Nat} {s t : State} (h : Host.Core.run Sys2Proof.core n s = .next t) :
    t.memory = s.memory :=
  run_preserves Sys2Proof.core (P := fun u : State => u.memory = s.memory)
    (fun _ _ hstep hmem => (exec_inputPort_memory hstep).2.trans hmem) h rfl

/-- Reading back the byte the host has just written. -/
theorem readMemory_hostWriteMemory_same {s : State} (hs : CanonicalMemory s) (index : Nibble) (value : Byte) :
    (hostWriteMemory index value s).readMemory index = value := by
  rw [hostWriteMemory_eq, State.readMemory_setByte hs, if_pos rfl]

/-- Settles O39: the steps leave the written byte in place, so the fetch at its address finds it. -/
theorem writtenByteIsFetchedThere : Obligations.WrittenByteIsFetchedThere := by
  intro s t index value n hs hrun hpc
  have hfetch : t.fetch = value := by
    rw [State.fetch, hpc, State.readMemory_congr (run_memory hrun), readMemory_hostWriteMemory_same hs]
  rw [step_eq, hfetch]

end Sys2Proof.Machine

/-! The two fields of a byte and the byte they pack to (rules R51, R60). -/

namespace Sys2Proof

/-- Bit `j` of the opcode is bit `4 + j` of the byte. -/
theorem opcodeOf_getLsbD (ir : Byte) {j : Nat} (hj : j < 4) :
    (opcodeOf ir).getLsbD j = ir.getLsbD (4 + j) := by
  simp [opcodeOf, hj]

/-- Bit `j` of the immediate is bit `j` of the byte. -/
theorem immOf_getLsbD (ir : Byte) {j : Nat} (hj : j < 4) : (immOf ir).getLsbD j = ir.getLsbD j := by
  simp [immOf, hj]

/-- A byte as a number, from its two fields: the quotient and the remainder by 16. -/
theorem toNat_eq_fields (ir : Byte) : ir.toNat = 16 * (opcodeOf ir).toNat + (immOf ir).toNat := by
  rw [opcodeOf_toNat, immOf_toNat, Nat.div_add_mod]

/-- The packed byte as a number: its two fields are the nibbles it was packed from. -/
theorem packByte_toNat (op imm : Nibble) : (packByte op imm).toNat = 16 * op.toNat + imm.toNat := by
  rw [toNat_eq_fields, opcodeOf_packByte, immOf_packByte]

end Sys2Proof

namespace Sys2Proof.Machine

/-- Settles O5: the fields are quotient and remainder by 16, and bit by bit the two halves of the byte. -/
theorem instructionByteFields : Obligations.InstructionByteFields := fun ir =>
  ⟨opcodeOf_toNat ir, immOf_toNat ir, toNat_eq_fields ir,
    fun _ hj => opcodeOf_getLsbD ir hj, fun _ hj => immOf_getLsbD ir hj⟩

/-- Settles O6: the encoder packs the opcode and the low nibble; the five examples are evaluated. -/
theorem encodingIsSixteenTimesOpcodePlusImmediate : Obligations.EncodingIsSixteenTimesOpcodePlusImmediate :=
  ⟨packByte_toNat, fun i => packByte_toNat i.opcode i.lowNibble, by decide⟩

end Sys2Proof.Machine

/-! The 4-bit adder and the increment made from it (rules R71, R74). -/

namespace Sys2Proof.Machine

/-- The carry-out and the result together hold the exact sum. -/
theorem add_exact (a b : Nibble) :
    16 * (add a b).1.toNat + (add a b).2.toNat = a.toNat + b.toNat := by
  have ha := a.isLt
  have hb := b.isLt
  rw [add_carry, add_result_toNat]
  by_cases h : 16 ≤ a.toNat + b.toNat
  · rw [decide_eq_true h, Bool.toNat_true]
    omega
  · rw [decide_eq_false h, Bool.toNat_false]
    omega

/-- Adding one carries out exactly at 15. -/
theorem add_one_carry_iff (p : Nibble) : (add p 1#4).1 = true ↔ p = 15#4 := by
  have hp := p.isLt
  rw [add_carry, decide_eq_true_iff, ← BitVec.toNat_inj, BitVec.toNat_ofNat, BitVec.toNat_ofNat]
  omega

/-- Settles O11: the result and the carry-out as numbers, and that together they lose nothing of the sum. -/
theorem adderResultAndCarryOut : Obligations.AdderResultAndCarryOut := fun a b =>
  ⟨add_result_toNat a b, add_carry a b, add_exact a b⟩

/-- Settles O13: the increment is the adder's result for one more, and the advance takes only that result. -/
theorem incrementWrapsAndDropsItsCarry : Obligations.IncrementWrapsAndDropsItsCarry :=
  ⟨fun p => ⟨rfl, inc_toNat p, add_one_carry_iff p⟩, by decide,
    fun s => ⟨s.advance_carry, s.advance_programCounter⟩⟩

end Sys2Proof.Machine

/-! The step cycle: what the decoder reads from an encoding and from a jump's byte (rules R57, R60). -/

namespace Sys2Proof.Laws.EncodedFields

/-- The per-constructor lemmas of the family, for an arbitrary instruction. -/
theorem statement_of_instr (i : Instr) : Statement i := by
  cases i with
  | addAImm imm => exact addAImm imm
  | movAB => exact movAB
  | inA => exact inA
  | movAImm imm => exact movAImm imm
  | movBA => exact movBA
  | addBImm imm => exact addBImm imm
  | inB => exact inB
  | movBImm imm => exact movBImm imm
  | unassigned8 imm => exact unassigned8 imm
  | outB => exact outB
  | unassignedA imm => exact unassignedA imm
  | outImm imm => exact outImm imm
  | unassignedC imm => exact unassignedC imm
  | unassignedD imm => exact unassignedD imm
  | jncImm imm => exact jncImm imm
  | jmpImm imm => exact jmpImm imm

end Sys2Proof.Laws.EncodedFields

namespace Sys2Proof

/-- The opcode map sends the two fields an instruction is encoded with back to it. -/
theorem decodeFields_opcode_lowNibble (i : Instr) : decodeFields i.opcode i.lowNibble = i := by
  obtain ⟨-, -, hmap⟩ := Laws.EncodedFields.statement_of_instr i
  exact hmap

/-- Decoding undoes encoding. -/
theorem decode_encode (i : Instr) : decode (encode i) = i := by
  rw [encode, decode_packByte, decodeFields_opcode_lowNibble]

/-- The row 1110 of the opcode map. -/
theorem decodeFields_jnc (imm : Nibble) : decodeFields 0b1110#4 imm = .jncImm imm := rfl

/-- The row 1111 of the opcode map. -/
theorem decodeFields_jmp (imm : Nibble) : decodeFields 0b1111#4 imm = .jmpImm imm := rfl

end Sys2Proof

/-! The step cycle: one behaviour per step, its single destination, and the program counter it leaves
(rules R81 to R85). -/

namespace Sys2Proof.Machine

/-- Settles O27: a step is one execution of the decoded byte, and decoding undoes encoding. -/
theorem stepRunsTheFetchedInstruction : Obligations.StepRunsTheFetchedInstruction := by
  constructor
  · rintro s ir rfl
    exact step_eq s
  · intro s i h
    rw [step_eq, State.fetch, h, decode_encode]

/-- An execution leaves two of `A`, `B` and `OUT` unchanged. -/
theorem exec_writes_at_most_one {i : Instr} {s t : State} (h : exec i s = .next t) :
    (t.registerB = s.registerB ∧ t.outputPort = s.outputPort) ∨
    (t.registerA = s.registerA ∧ t.outputPort = s.outputPort) ∨
    (t.registerA = s.registerA ∧ t.registerB = s.registerB) := by
  obtain ⟨v, c, he⟩ | ⟨v, c, he⟩ | ⟨v, he⟩ | ⟨target, he⟩ | he := exec_cases i s <;>
    (rw [he] at h; cases h)
  case inl => exact .inl ⟨rfl, rfl⟩
  case inr.inl => exact .inr (.inl ⟨rfl, rfl⟩)
  all_goals exact .inr (.inr ⟨rfl, rfl⟩)

/-- The flag an assigned opcode leaves does not depend on the flag before it. -/
theorem carryAfter_setCarry (op imm : Nibble) (s : State) (c : Bool) :
    carryAfter op imm (s.setCarry c) = carryAfter op imm s := rfl

/-- Settles O32: every execution has at most one destination, and the flag an assigned opcode leaves is
`carryAfter`, whatever the flag was. -/
theorem eachBehaviourWritesAtMostOneDestination : Obligations.EachBehaviourWritesAtMostOneDestination :=
  ⟨step_eq, fun _ _ _ h => exec_writes_at_most_one h, fun i s ha =>
    ⟨carryAfter i.opcode i.lowNibble s, fun c _ h => (exec_carry ha h).trans (carryAfter_setCarry _ _ s c)⟩⟩

/-- An execution of a non-jump opcode increments the program counter (for the four unassigned ones by
decision D3). -/
theorem exec_programCounter_of_not_jump {i : Instr} (hj : jumpOpcode i.opcode = false) (s : State) :
    ∃ t, exec i s = .next t ∧ t.programCounter = inc s.programCounter := by
  cases i with
  | jncImm | jmpImm => cases hj
  | _ => exact ⟨_, rfl, rfl⟩

/-- JMP is a taken jump in every state. -/
theorem exec_jmpImm (imm : Nibble) (s : State) : exec (.jmpImm imm) s = .next (jumpTo imm s) := rfl

/-- JNC on a clear carry is a taken jump. -/
theorem exec_jncImm_of_carry_clear {s : State} (hc : s.carry = false) (imm : Nibble) :
    exec (.jncImm imm) s = .next (jumpTo imm s) := if_pos hc

/-- JNC on a set carry advances and clears the flag. -/
theorem exec_jncImm_of_carry_set {s : State} (hc : s.carry = true) (imm : Nibble) :
    exec (.jncImm imm) s = .next (s.advance.setCarry false) := if_neg (by simp [hc])

/-- A step on a JNC that is not taken, by the opcode of the fetched byte alone. -/
theorem step_jnc_of_carry_set {s : State} (hop : opcodeOf s.fetch = 0b1110#4) (hc : s.carry = true) :
    step s = .next (s.advance.setCarry false) := by
  rw [step_eq, decode, hop, decodeFields_jnc, exec_jncImm_of_carry_set hc]

/-- Settles O34: a non-jump opcode and a JNC not taken both end with the increment, which leaves the flag
as it is. -/
theorem nonJumpStepsAdvanceByOne : Obligations.NonJumpStepsAdvanceByOne := by
  refine ⟨fun s _ hj => ?_, fun s hop hc => ?_, State.advance_carry⟩
  · obtain ⟨t, hstep, hpc⟩ := exec_programCounter_of_not_jump (i := decode s.fetch) (by rwa [decode_opcode]) s
    exact ⟨t, hstep, by rw [hpc, inc_toNat]⟩
  · exact ⟨_, step_jnc_of_carry_set hop hc, inc_toNat s.programCounter⟩

/-- Settles O35: JMP and a JNC taken replace the program counter; a JNC not taken increments it. -/
theorem jumpsSkipTheIncrement : Obligations.JumpsSkipTheIncrement := by
  intro s imm
  refine ⟨fun hf => ?jmp, fun hf hc => ?taken, fun hf hc => ?notTaken⟩
  case jmp => exact ⟨jumpTo imm s, by rw [step_of_fetch hf, decodeFields_jmp, exec_jmpImm], rfl⟩
  case taken =>
    exact ⟨jumpTo imm s, by rw [step_of_fetch hf, decodeFields_jnc, exec_jncImm_of_carry_clear hc], rfl⟩
  case notTaken =>
    exact ⟨_, step_jnc_of_carry_set (by rw [hf, opcodeOf_packByte]) hc, inc_toNat s.programCounter⟩

end Sys2Proof.Machine

/-! The ADD family (rules R90, R91): the byte of each instruction and its whole next state. -/

namespace Sys2Proof

/-- Decoding the byte whose number is `16 * op + imm` goes by those two fields. -/
theorem decode_ofNat (op imm : Nibble) :
    decode (BitVec.ofNat 8 (16 * op.toNat + imm.toNat)) = decodeFields op imm := by
  rw [← packByte_toNat, BitVec.ofNat_toNat, BitVec.setWidth_eq, decode_packByte]

/-- The row 0000 of the opcode map. -/
theorem decodeFields_addA (imm : Nibble) : decodeFields 0b0000#4 imm = .addAImm imm := rfl

/-- The row 0101 of the opcode map. -/
theorem decodeFields_addB (imm : Nibble) : decodeFields 0b0101#4 imm = .addBImm imm := rfl

end Sys2Proof

namespace Sys2Proof.Machine

/-- ADD A: the sum in `A`, its carry-out in the flag, and the advance. -/
theorem exec_addAImm (imm : Nibble) (s : State) : exec (.addAImm imm) s =
    .next ((s.setA (add s.registerA imm).2).setCarry (add s.registerA imm).1).advance := by
  rw [exec, execAddAImm, addTo_a]

/-- ADD B: the sum in `B`, its carry-out in the flag, and the advance. -/
theorem exec_addBImm (imm : Nibble) (s : State) : exec (.addBImm imm) s =
    .next ((s.setB (add s.registerB imm).2).setCarry (add s.registerB imm).1).advance := by
  rw [exec, execAddBImm, addTo_b]

/-- Settles O14: the byte is the row 0000; the next state holds the adder's result and carry-out. -/
theorem addAImmAddsAndSetsCarry : Obligations.AddAImmAddsAndSetsCarry := fun imm s =>
  ⟨(decode_ofNat 0b0000#4 imm).trans (decodeFields_addA imm), _, exec_addAImm imm s,
    add_result_toNat s.registerA imm, add_carry s.registerA imm, inc_toNat s.programCounter,
    rfl, rfl, rfl, State.readMemory_congr rfl⟩

/-- Settles O15: the byte is the row 0101; the next state holds the adder's result and carry-out. -/
theorem addBImmAddsAndSetsCarry : Obligations.AddBImmAddsAndSetsCarry := fun imm s =>
  ⟨(decode_ofNat 0b0101#4 imm).trans (decodeFields_addB imm), _, exec_addBImm imm s,
    add_result_toNat s.registerB imm, add_carry s.registerB imm, inc_toNat s.programCounter,
    rfl, rfl, rfl, State.readMemory_congr rfl⟩

end Sys2Proof.Machine

/-! The MOV family (rules R92 to R95): what copying into a register leaves, then the byte of each instruction
and its next state. -/

namespace Sys2Proof

/-- The row 0011 of the opcode map. -/
theorem decodeFields_movA (imm : Nibble) : decodeFields 0b0011#4 imm = .movAImm imm := rfl

/-- The row 0111 of the opcode map. -/
theorem decodeFields_movB (imm : Nibble) : decodeFields 0b0111#4 imm = .movBImm imm := rfl

end Sys2Proof

namespace Sys2Proof.Machine

/-- An instruction that copies a source into `A`: completion, effect and frame. -/
theorem exec_copies_to_a {i : Instr} {src : Source} {s : State}
    (h : exec i s = .next (copyTo (.register .a) src s)) :
    ∃ t : State, exec i s = .next t ∧
      t.registerA = s.readSource src ∧ t.carry = false ∧
      t.programCounter.toNat = (s.programCounter.toNat + 1) % 16 ∧
      t.registerB = s.registerB ∧ t.outputPort = s.outputPort ∧ t.inputPort = s.inputPort ∧
      SameMemory s t := by
  rw [copyTo_a] at h
  exact ⟨_, h, rfl, rfl, inc_toNat s.programCounter, rfl, rfl, rfl, State.readMemory_congr rfl⟩

/-- An instruction that copies a source into `B`: completion, effect and frame. -/
theorem exec_copies_to_b {i : Instr} {src : Source} {s : State}
    (h : exec i s = .next (copyTo (.register .b) src s)) :
    ∃ t : State, exec i s = .next t ∧
      t.registerB = s.readSource src ∧ t.carry = false ∧
      t.programCounter.toNat = (s.programCounter.toNat + 1) % 16 ∧
      t.registerA = s.registerA ∧ t.outputPort = s.outputPort ∧ t.inputPort = s.inputPort ∧
      SameMemory s t := by
  rw [copyTo_b] at h
  exact ⟨_, h, rfl, rfl, inc_toNat s.programCounter, rfl, rfl, rfl, State.readMemory_congr rfl⟩

/-- MOV A,imm is a copy of the immediate into `A`. -/
theorem exec_movAImm (imm : Nibble) (s : State) :
    exec (.movAImm imm) s = .next (copyTo (.register .a) (.immediate imm) s) := rfl

/-- MOV B,imm is a copy of the immediate into `B`. -/
theorem exec_movBImm (imm : Nibble) (s : State) :
    exec (.movBImm imm) s = .next (copyTo (.register .b) (.immediate imm) s) := rfl

/-- MOV A,B is a copy of `B` into `A`. -/
theorem exec_movAB (s : State) : exec .movAB s = .next (copyTo (.register .a) (.register .b) s) := rfl

/-- MOV B,A is a copy of `A` into `B`. -/
theorem exec_movBA (s : State) : exec .movBA s = .next (copyTo (.register .b) (.register .a) s) := rfl

/-- Settles O16: the byte is the row 0011; the next state is the copy of the immediate into `A`. -/
theorem movAImmLoadsTheImmediate : Obligations.MovAImmLoadsTheImmediate := fun imm s =>
  ⟨(decode_ofNat 0b0011#4 imm).trans (decodeFields_movA imm), exec_copies_to_a (exec_movAImm imm s)⟩

/-- Settles O17: the byte is the row 0111; the next state is the copy of the immediate into `B`. -/
theorem movBImmLoadsTheImmediate : Obligations.MovBImmLoadsTheImmediate := fun imm s =>
  ⟨(decode_ofNat 0b0111#4 imm).trans (decodeFields_movB imm), exec_copies_to_b (exec_movBImm imm s)⟩

/-- Settles O18: 0x10 is the canonical byte of MOV A,B; the next state is the copy of `B` into `A`. -/
theorem movABCopiesBIntoA : Obligations.MovABCopiesBIntoA := fun s =>
  ⟨decode_encode .movAB, exec_copies_to_a (exec_movAB s)⟩

/-- Settles O19: 0x40 is the canonical byte of MOV B,A; the next state is the copy of `A` into `B`. -/
theorem movBACopiesAIntoB : Obligations.MovBACopiesAIntoB := fun s =>
  ⟨decode_encode .movBA, exec_copies_to_b (exec_movBA s)⟩

end Sys2Proof.Machine

/-! The port family (rules R96 to R99): IN copies the input port into a register, OUT copies into the output
port. -/

namespace Sys2Proof

/-- The row 1011 of the opcode map. -/
theorem decodeFields_out (imm : Nibble) : decodeFields 0b1011#4 imm = .outImm imm := rfl

end Sys2Proof

namespace Sys2Proof.Machine

/-- An instruction that copies a source into the output port: completion, effect and frame. -/
theorem exec_copies_to_out {i : Instr} {src : Source} {s : State}
    (h : exec i s = .next (copyTo .outputPort src s)) :
    ∃ t : State, exec i s = .next t ∧
      t.outputPort = s.readSource src ∧ t.carry = false ∧
      t.programCounter.toNat = (s.programCounter.toNat + 1) % 16 ∧
      t.registerA = s.registerA ∧ t.registerB = s.registerB ∧ t.inputPort = s.inputPort ∧
      SameMemory s t := by
  rw [copyTo_out] at h
  exact ⟨_, h, rfl, rfl, inc_toNat s.programCounter, rfl, rfl, rfl, State.readMemory_congr rfl⟩

/-- IN A is a copy of the input port into `A`. -/
theorem exec_inA (s : State) : exec .inA s = .next (copyTo (.register .a) .inputPort s) := rfl

/-- IN B is a copy of the input port into `B`. -/
theorem exec_inB (s : State) : exec .inB s = .next (copyTo (.register .b) .inputPort s) := rfl

/-- OUT imm is a copy of the immediate into the output port. -/
theorem exec_outImm (imm : Nibble) (s : State) :
    exec (.outImm imm) s = .next (copyTo .outputPort (.immediate imm) s) := rfl

/-- OUT B is a copy of `B` into the output port. -/
theorem exec_outB (s : State) : exec .outB s = .next (copyTo .outputPort (.register .b) s) := rfl

/-- Settles O20: 0x20 is the canonical byte of IN A; the next state is the copy of the input port into `A`. -/
theorem inACopiesInputPortIntoA : Obligations.InACopiesInputPortIntoA := fun s =>
  ⟨decode_encode .inA, exec_copies_to_a (exec_inA s)⟩

/-- Settles O21: 0x60 is the canonical byte of IN B; the next state is the copy of the input port into `B`. -/
theorem inBCopiesInputPortIntoB : Obligations.InBCopiesInputPortIntoB := fun s =>
  ⟨decode_encode .inB, exec_copies_to_b (exec_inB s)⟩

/-- Settles O22: the byte is the row 1011; the next state is the copy of the immediate into the output port. -/
theorem outImmWritesTheOutputPort : Obligations.OutImmWritesTheOutputPort := fun imm s =>
  ⟨(decode_ofNat 0b1011#4 imm).trans (decodeFields_out imm), exec_copies_to_out (exec_outImm imm s)⟩

/-- Settles O23: 0x90 is the canonical byte of OUT B; the next state is the copy of `B` into the output port. -/
theorem outBWritesTheOutputPort : Obligations.OutBWritesTheOutputPort := fun s =>
  ⟨decode_encode .outB, exec_copies_to_out (exec_outB s)⟩

end Sys2Proof.Machine

/-! The jumps (rules R100, R101): the byte of each instruction and its next state. -/

namespace Sys2Proof.Machine

/-- Settles O24: the byte is the row 1111; the next state is the taken jump. -/
theorem jmpReplacesTheProgramCounter : Obligations.JmpReplacesTheProgramCounter := fun imm s =>
  ⟨(decode_ofNat 0b1111#4 imm).trans (decodeFields_jmp imm), jumpTo imm s, exec_jmpImm imm s,
    rfl, rfl, rfl, rfl, rfl, rfl, State.readMemory_congr rfl⟩

/-- Settles O25: the byte is the row 1110; a clear carry takes the jump, a set one advances. -/
theorem jncJumpsOnClearCarry : Obligations.JncJumpsOnClearCarry := by
  intro imm s
  refine ⟨(decode_ofNat 0b1110#4 imm).trans (decodeFields_jnc imm), ?_⟩
  cases hc : s.carry with
  | false =>
    exact ⟨jumpTo imm s, exec_jncImm_of_carry_clear hc imm, fun _ => rfl, nofun,
      rfl, rfl, rfl, rfl, rfl, State.readMemory_congr rfl⟩
  | true =>
    exact ⟨s.advance.setCarry false, exec_jncImm_of_carry_set hc imm, nofun,
      fun _ => inc_toNat s.programCounter, rfl, rfl, rfl, rfl, rfl, State.readMemory_congr rfl⟩

end Sys2Proof.Machine

/-! Exceptions (rule R110): the machine has none, so every assigned instruction completes. -/

namespace Sys2Proof.Machine

/-- Settles O29, by the instruction: the four unassigned opcodes are excluded, so decision D3 plays no part;
JNC completes on either value of the flag, and every other instruction has a single outcome. -/
theorem everyAssignedInstructionIsTotal : Obligations.EveryAssignedInstructionIsTotal := by
  intro i s ha
  cases i with
  | unassigned8 | unassignedA | unassignedC | unassignedD => cases ha
  | jncImm imm =>
    cases hc : s.carry with
    | false => exact ⟨jumpTo imm s, exec_jncImm_of_carry_clear hc imm⟩
    | true => exact ⟨s.advance.setCarry false, exec_jncImm_of_carry_set hc imm⟩
  | _ => exact ⟨_, rfl⟩

end Sys2Proof.Machine

/-! Power-on and reset (rules R130, R131): what each clears, and the memory each gives or keeps. -/

namespace Sys2Proof.Machine

/-- Settles O1: the record is `State.reset` but for its memory, which is loaded with the given bytes. -/
theorem powerOnZeroesEverythingButMemory : Obligations.PowerOnZeroesEverythingButMemory := fun initMem =>
  ⟨rfl, rfl, rfl, rfl, rfl, rfl, powerOn_readMemory initMem⟩

/-- The host's reset operation always has a next state. -/
theorem applyOp_reset (s : State) : applyOp .reset s = .next (hostReset s) := rfl

/-- Reset keeps every byte of memory. -/
theorem hostReset_readMemory (s : State) (a : Nibble) : (hostReset s).readMemory a = s.readMemory a :=
  State.readMemory_congr (hostReset_memory s) a

/-- The first fetch after reset is the byte at address 0, as it was before. -/
theorem hostReset_fetch (s : State) : (hostReset s).fetch = s.readMemory 0#4 := by
  rw [State.fetch, hostReset_programCounter, hostReset_readMemory]

/-- Only memory survives a reset, so a second one finds nothing to clear. -/
theorem hostReset_hostReset (s : State) : hostReset (hostReset s) = hostReset s := rfl

/-- Settles O3: the next state is `hostReset s`, field by field; the last clause is its idempotence. -/
theorem resetOperationClearsAllButMemory : Obligations.ResetOperationClearsAllButMemory := fun s =>
  ⟨hostReset s, applyOp_reset s, hostReset_registerA s, hostReset_registerB s, hostReset_carry s,
    hostReset_programCounter s, hostReset_outputPort s, hostReset_inputPort s, hostReset_readMemory s,
    hostReset_fetch s, (applyOp_reset _).trans (congrArg _ (hostReset_hostReset s))⟩

end Sys2Proof.Machine

/-! Runs of host operations (rules R21, R41): what every operation keeps, every run keeps. Canonical memory is
one such thing. -/

namespace Sys2Proof.Machine

/-- The invariant speaks of the memory field alone. -/
theorem canonicalMemory_congr {s t : State} (hmem : t.memory = s.memory) (hs : CanonicalMemory s) :
    CanonicalMemory t := by
  rw [CanonicalMemory, hmem]
  exact hs

/-- Settles O52: no step writes memory. -/
theorem everyStepKeepsTheInvariant : Obligations.EveryStepKeepsTheInvariant := by
  intro s t hs h
  obtain ⟨-, hmem⟩ := exec_inputPort_memory h
  exact canonicalMemory_congr hmem hs

/-- The host's write keeps memory canonical. -/
theorem canonicalMemory_hostWriteMemory {s : State} (hs : CanonicalMemory s) (index : Nibble) (value : Byte) :
    CanonicalMemory (hostWriteMemory index value s) := State.wf_setByte hs index value

/-- Every operation of the host keeps memory canonical. -/
theorem applyOp_canonicalMemory {op : HostOp} {s t : State} (h : applyOp op s = .next t)
    (hs : CanonicalMemory s) : CanonicalMemory t := by
  cases op with
  | step => exact everyStepKeepsTheInvariant s t hs h
  | reset => cases h; exact canonicalMemory_congr (hostReset_memory s) hs
  | writeMemory index value => cases h; exact canonicalMemory_hostWriteMemory hs index value
  | setInput v => cases h; exact canonicalMemory_congr (State.setIn_memory s v) hs

/-- A run that answers a next state goes through a next state of its first operation. -/
theorem applyOp_next_of_runOps_cons {op : HostOp} {ops : List HostOp} {s u : State}
    (h : runOps (op :: ops) s = .next u) : ∃ t, applyOp op s = .next t ∧ runOps ops t = .next u := by
  rw [runOps] at h
  split at h
  case h_1 t hop => exact ⟨t, hop, h⟩
  all_goals cases h

/-- A predicate that every operation of the run keeps is kept by the run. -/
theorem runOps_preserves {P : State → Prop} {ops : List HostOp}
    (hP : ∀ op ∈ ops, ∀ s t, applyOp op s = .next t → P s → P t) {s u : State}
    (h : runOps ops s = .next u) (hs : P s) : P u := by
  induction ops generalizing s with
  | nil => cases h; exact hs
  | cons op ops ih =>
    obtain ⟨t, hop, hrun⟩ := applyOp_next_of_runOps_cons h
    exact ih (fun op' hmem => hP op' (.tail op hmem)) hrun (hP op (.head ops) s t hop hs)

/-- Settles O53: each operation keeps memory canonical, so every run does. -/
theorem everyHostRunKeepsTheInvariant : Obligations.EveryHostRunKeepsTheInvariant := fun _ _ _ hs h =>
  runOps_preserves (fun _ _ _ _ hop => applyOp_canonicalMemory hop) h hs

end Sys2Proof.Machine

/-! The two outcomes of JNC (rule R101). -/

namespace Sys2Proof.Machine

/-- JNC either takes the jump on a clear carry or advances on a set one. -/
theorem exec_jncImm_cases {imm : Nibble} {s t : State} (h : exec (.jncImm imm) s = .next t) :
    (s.carry = false ∧ t = jumpTo imm s) ∨ (s.carry = true ∧ t = s.advance.setCarry false) := by
  cases hc : s.carry with
  | false =>
    rw [exec_jncImm_of_carry_clear hc] at h
    cases h
    exact .inl ⟨rfl, rfl⟩
  | true =>
    rw [exec_jncImm_of_carry_set hc] at h
    cases h
    exact .inr ⟨rfl, rfl⟩

end Sys2Proof.Machine

/-! Totality (rules R88, R21): every execution, step, operation and run answers a next state. -/

namespace Sys2Proof.Machine

/-- Every execution answers a next state (for the four unassigned opcodes by decision D3). -/
theorem exec_next (i : Instr) (s : State) : ∃ t, exec i s = .next t := by
  obtain ⟨_, _, h⟩ | ⟨_, _, h⟩ | ⟨_, h⟩ | ⟨_, h⟩ | h := exec_cases i s <;> exact ⟨_, h⟩

/-- Every operation of the host answers a next state. -/
theorem applyOp_next (op : HostOp) (s : State) : ∃ t, applyOp op s = .next t := by
  cases op with
  | step => exact exec_next (decode s.fetch) s
  | _ => exact ⟨_, rfl⟩

/-- Where every step answers a next state, so does every run, in any machine of the host's interface. -/
theorem run_next_of_step_next (M : Host.Core) (hM : ∀ s, ∃ t, M.step s = .next t) (n : Nat) (s : M.State) :
    ∃ t, M.run n s = .next t := by
  induction n generalizing s with
  | zero => exact ⟨s, rfl⟩
  | succ n ih =>
    obtain ⟨t, hstep⟩ := hM s
    rw [run_succ_of_step M hstep]
    exact ih t

/-- Settles O30: every step answers a next state, so every run of steps does. -/
theorem stepsNeverStop : Obligations.StepsNeverStop := fun s n =>
  run_next_of_step_next Sys2Proof.core (fun u : State => exec_next (decode u.fetch) u) n s

/-- Settles O48, by induction on the operations, each of which answers a next state. -/
theorem everyHostRunGoesThrough : Obligations.EveryHostRunGoesThrough := by
  intro ops
  induction ops with
  | nil => exact fun s => ⟨s, rfl⟩
  | cons op ops ih =>
    intro s
    obtain ⟨t, hop⟩ := applyOp_next op s
    rw [runOps_cons_next hop]
    exact ih t

end Sys2Proof.Machine

/-! The model refines the spec's own machine (rule R89): each update of the state on plain numbers, then one
execution, one operation and a run. -/

namespace Sys2Proof.Machine

@[simp] theorem State.toRef_a (s : State) : s.toRef.a = s.registerA.toNat := rfl
@[simp] theorem State.toRef_b (s : State) : s.toRef.b = s.registerB.toNat := rfl
@[simp] theorem State.toRef_cf (s : State) : s.toRef.cf = s.carry := rfl
@[simp] theorem State.toRef_pc (s : State) : s.toRef.pc = s.programCounter.toNat := rfl
@[simp] theorem State.toRef_out (s : State) : s.toRef.out = s.outputPort.toNat := rfl
@[simp] theorem State.toRef_inp (s : State) : s.toRef.inp = s.inputPort.toNat := rfl

@[simp] theorem State.toRef_setA (s : State) (v : Nibble) :
    (s.setA v).toRef = { s.toRef with a := v.toNat } := rfl
@[simp] theorem State.toRef_setB (s : State) (v : Nibble) :
    (s.setB v).toRef = { s.toRef with b := v.toNat } := rfl
@[simp] theorem State.toRef_setCarry (s : State) (c : Bool) :
    (s.setCarry c).toRef = { s.toRef with cf := c } := rfl
@[simp] theorem State.toRef_setPc (s : State) (p : Nibble) :
    (s.setPc p).toRef = { s.toRef with pc := p.toNat } := rfl
@[simp] theorem State.toRef_setOut (s : State) (v : Nibble) :
    (s.setOut v).toRef = { s.toRef with out := v.toNat } := rfl
@[simp] theorem State.toRef_setIn (s : State) (v : Nibble) :
    (s.setIn v).toRef = { s.toRef with inp := v.toNat } := rfl

/-- The advance on plain numbers. -/
@[simp] theorem State.toRef_advance (s : State) :
    s.advance.toRef = { s.toRef with pc := (s.programCounter.toNat + 1) % 16 } := by
  rw [State.advance, State.toRef_setPc, inc_toNat]

/-- The host's write replaces one number of the array; canonical memory makes this so at every address. -/
theorem toRef_hostWriteMemory {s : State} (hs : CanonicalMemory s) (index : Nibble) (value : Byte) :
    (hostWriteMemory index value s).toRef =
      { s.toRef with mem := fun k => if k = index.toNat then value.toNat else s.toRef.mem k } := by
  have hmem : (hostWriteMemory index value s).toRef.mem =
      fun k => if k = index.toNat then value.toNat else s.toRef.mem k := by
    funext k
    change (Memory.read (Memory.write s.memory index.toNat value) k).toNat = _
    rw [Memory.read_write hs]
    by_cases hk : index.toNat = k
    · rw [if_pos hk, if_pos hk.symm]
    · rw [if_neg hk, if_neg (Ne.symm hk)]
      rfl
  rw [← hmem]
  rfl

/-- The adder computes the spec's `add` on plain numbers. -/
theorem refAdd_toNat (a b : Nibble) : refAdd a.toNat b.toNat = ((add a b).1, (add a b).2.toNat) := by
  rw [refAdd, add_carry, add_result_toNat]

/-- The opcode of the fetched byte on plain numbers. -/
theorem toRef_opcode (s : State) : s.toRef.mem s.programCounter.toNat / 16 = (decode s.fetch).opcode.toNat := by
  rw [decode_opcode, opcodeOf_toNat]
  rfl

/-- The immediate of the fetched byte on plain numbers, where the opcode uses it. -/
theorem toRef_immediate {s : State} (h : ignoresLowNibble (decode s.fetch).opcode = false) :
    s.toRef.mem s.programCounter.toNat % 16 = (decode s.fetch).lowNibble.toNat := by
  rw [decode_opcode] at h
  rw [decode_lowNibble h, immOf_toNat]
  rfl

/-- Executing an instruction is the spec's step on a byte with its opcode and, where it has one, its
immediate: the opcode selects the row of rule R89, and the row is the instruction's updates. -/
theorem exec_toRef {i : Instr} {s t : State}
    (hop : s.toRef.mem s.programCounter.toNat / 16 = i.opcode.toNat)
    (himm : ignoresLowNibble i.opcode = false →
      s.toRef.mem s.programCounter.toNat % 16 = i.lowNibble.toNat)
    (h : exec i s = .next t) : t.toRef = refStep s.toRef := by
  cases i with
  | movAB | inA | movBA | inB | outB =>
    cases h
    simp [refStep, hop, Instr.opcode, copyTo_a, copyTo_b, copyTo_out]
  | unassigned8 | unassignedA | unassignedC | unassignedD =>
    cases h
    simp [refStep, hop, Instr.opcode]
  | addAImm imm | addBImm imm =>
    cases h
    simp [refStep, hop, himm rfl, Instr.opcode, Instr.lowNibble, addTo_a, addTo_b, refAdd_toNat]
  | movAImm imm | movBImm imm | outImm imm =>
    cases h
    simp [refStep, hop, himm rfl, Instr.opcode, Instr.lowNibble, copyTo_a, copyTo_b, copyTo_out]
  | jmpImm imm =>
    cases h
    simp [refStep, hop, himm rfl, Instr.opcode, Instr.lowNibble, jumpTo_eq]
  | jncImm imm =>
    obtain ⟨hc, rfl⟩ | ⟨hc, rfl⟩ := exec_jncImm_cases h
    · simp [refStep, hop, himm rfl, Instr.opcode, Instr.lowNibble, jumpTo_eq, hc]
    · simp [refStep, hop, Instr.opcode, hc]

/-- An operation on canonical memory is the operation of the spec's machine. -/
theorem applyOp_toRef {op : HostOp} {s t : State} (hs : CanonicalMemory s) (h : applyOp op s = .next t) :
    t.toRef = refOp op s.toRef := by
  cases op with
  | step => exact exec_toRef (toRef_opcode s) toRef_immediate h
  | reset => cases h; rfl
  | writeMemory index value => cases h; exact toRef_hostWriteMemory hs index value
  | setInput v => cases h; exact State.toRef_setIn s v

/-- Settles O54, by induction on the operations: each is the spec's operation and keeps memory canonical. -/
theorem everyHostRunRefinesTheSpecsMachine : Obligations.EveryHostRunRefinesTheSpecsMachine := by
  intro ops
  induction ops with
  | nil => exact fun s _ => ⟨s, rfl, rfl⟩
  | cons op ops ih =>
    intro s hs
    obtain ⟨t, hop⟩ := applyOp_next op s
    rw [runOps_cons_next hop, refRun, ← applyOp_toRef hs hop]
    exact ih t (applyOp_canonicalMemory hop hs)

end Sys2Proof.Machine

/-! Memory under the host (rules R31, R33, R35, R131): what a write and power-on leave to be read, and the
canonical form. -/

namespace Sys2Proof.Machine

/-- The host's write leaves every other address. -/
theorem readMemory_hostWriteMemory_of_ne {s : State} (hs : CanonicalMemory s) {index a : Nibble}
    (ha : a ≠ index) (value : Byte) : (hostWriteMemory index value s).readMemory a = s.readMemory a := by
  rw [hostWriteMemory_eq, State.readMemory_setByte hs, if_neg ha.symm]

/-- The host's write operation always has a next state. -/
theorem applyOp_writeMemory (index : Nibble) (value : Byte) (s : State) :
    applyOp (.writeMemory index value) s = .next (hostWriteMemory index value s) := rfl

/-- The power-on state has canonical memory, whatever its bytes. -/
theorem canonicalMemory_powerOn (initMem : Nibble → Byte) : CanonicalMemory (powerOn initMem) :=
  Memory.wfFrom_load (fun a => initMem (BitVec.ofNat 4 a)) Config.memorySize 0 (Nat.le_refl _)

/-- Canonical memory is the power-on memory of its own contents: the two read alike. -/
theorem reset_with_memory_eq_powerOn {s : State} (hs : CanonicalMemory s) :
    { State.reset with memory := s.memory } = powerOn s.readMemory := by
  have hmem : s.memory = (powerOn s.readMemory).memory :=
    Memory.eq_of_read_eq hs (canonicalMemory_powerOn s.readMemory) fun a =>
      (powerOn_readMemory s.readMemory a).symm
  rw [hmem]
  rfl

/-- Settles O4: reset keeps the memory the write left. -/
theorem patchedByteSurvivesReset : Obligations.PatchedByteSurvivesReset := by
  intro initMem index value
  have hs := canonicalMemory_powerOn initMem
  refine ⟨hostReset (hostWriteMemory index value (powerOn initMem)), rfl, ?_, fun a ha => ?_⟩
  · rw [hostReset_readMemory, readMemory_hostWriteMemory_same hs]
  · rw [hostReset_readMemory, readMemory_hostWriteMemory_of_ne hs ha, powerOn_readMemory]

/-- Settles O38: the written byte, the other bytes, the untouched fields, and the canonical form. -/
theorem writeMemoryReplacesOneByte : Obligations.WriteMemoryReplacesOneByte := fun s index value hs =>
  ⟨hostWriteMemory index value s, applyOp_writeMemory index value s,
    readMemory_hostWriteMemory_same hs index value,
    fun _ ha => readMemory_hostWriteMemory_of_ne hs ha value,
    rfl, rfl, rfl, rfl, rfl, rfl, canonicalMemory_hostWriteMemory hs index value⟩

/-- Settles O49: canonical memories are determined by what they read. -/
theorem canonicalMemoriesThatReadAlikeAreEqual : Obligations.CanonicalMemoriesThatReadAlikeAreEqual :=
  fun _ _ => Memory.eq_of_read_eq

/-- Settles O50: the empty list is canonical. -/
theorem resetStateMeetsTheInvariant : Obligations.ResetStateMeetsTheInvariant := rfl

/-- Settles O51: loading gives a canonical list, and a canonical list is the one loaded from its contents. -/
theorem everyPowerOnStateMeetsTheInvariant : Obligations.EveryPowerOnStateMeetsTheInvariant :=
  ⟨canonicalMemory_powerOn, fun _ => reset_with_memory_eq_powerOn⟩

/-- Settles O2: the memory of `State.reset` is the power-on memory of its contents, which are all zero. -/
theorem resetStateIsPowerOnWithZeroMemory : Obligations.ResetStateIsPowerOnWithZeroMemory :=
  ⟨reset_with_memory_eq_powerOn resetStateMeetsTheInvariant, applyOp_reset State.reset⟩

/-- An operation that does not write the address leaves its byte. -/
theorem applyOp_readMemory {op : HostOp} {s t : State} {a : Nibble} (hs : CanonicalMemory s)
    (hop : ∀ value, op ≠ .writeMemory a value) (h : applyOp op s = .next t) :
    t.readMemory a = s.readMemory a := by
  cases op with
  | step =>
    obtain ⟨-, hmem⟩ := exec_inputPort_memory h
    exact State.readMemory_congr hmem a
  | reset => cases h; exact hostReset_readMemory s a
  | writeMemory index value =>
    cases h
    have ha : a ≠ index := fun heq => hop value (by rw [heq])
    exact readMemory_hostWriteMemory_of_ne hs ha value
  | setInput v => cases h; exact State.setIn_readMemory s v a

/-- Settles O40: along the run memory stays canonical and the byte stays what it was. -/
theorem memoryChangesOnlyByWriteMemory : Obligations.MemoryChangesOnlyByWriteMemory := by
  intro ops s t a hs hops hrun
  have hkeep : CanonicalMemory t ∧ t.readMemory a = s.readMemory a :=
    runOps_preserves (P := fun u => CanonicalMemory u ∧ u.readMemory a = s.readMemory a)
      (fun op hmem _ _ hop ⟨hu, hread⟩ => ⟨applyOp_canonicalMemory hop hu,
        (applyOp_readMemory hu (fun value heq => hops value (heq ▸ hmem)) hop).trans hread⟩)
      hrun ⟨hs, rfl⟩
  exact hkeep.2

/-- Settles O28: canonical memory reads the placed word back at the program counter, and only there. -/
theorem placedWordIsTheNextInstruction : Obligations.PlacedWordIsTheNextInstruction := by
  intro s nbits w i hs hw
  have hdecode : decode (BitVec.ofNat 8 (w % 2 ^ nbits)) = i := by
    rw [decodeTableWord] at hw
    split at hw
    · exact Option.some.inj hw
    · cases hw
  have hfetch : (s.withFetchWord nbits w).fetch = BitVec.ofNat 8 (w % 2 ^ nbits) :=
    readMemory_hostWriteMemory_same hs s.programCounter _
  refine ⟨by rw [step_eq, hfetch, hdecode], rfl, fun a ha => ?_⟩
  exact readMemory_hostWriteMemory_of_ne hs ha _

/-- Settles O46: the write answers by the comparison of the index with the memory size. -/
theorem outOfRangeIndexIsRefused : Obligations.OutOfRangeIndexIsRefused := fun _ _ _ =>
  ⟨fun hge => if_neg (Nat.not_lt_of_le hge), fun hlt => if_pos hlt⟩

end Sys2Proof.Machine

/-! The ports (rules R15, R16, R45): what sets each, and that no instruction reads the output port. -/

namespace Sys2Proof.Machine

/-- Settles O42: the next state is the old one with the input port written. -/
theorem setInputWritesOnlyTheInputPort : Obligations.SetInputWritesOnlyTheInputPort := fun v s =>
  ⟨s.setIn v, rfl, rfl, rfl, rfl, rfl, rfl, rfl, s.setIn_readMemory v⟩

/-- An operation other than `set_input` keeps an input port that is 0. -/
theorem applyOp_inputPort_zero {op : HostOp} {s t : State} (hop : ∀ v, op ≠ .setInput v)
    (h : applyOp op s = .next t) (hin : s.inputPort = 0#4) : t.inputPort = 0#4 := by
  cases op with
  | step =>
    obtain ⟨hkeep, -⟩ := exec_inputPort_memory h
    rw [hkeep, hin]
  | reset => cases h; exact hostReset_inputPort s
  | writeMemory index value => cases h; exact hin
  | setInput v => exact absurd rfl (hop v)

/-- Settles O41: no operation of the run is `set_input`, and every other one keeps the port at 0. -/
theorem inputStaysZeroWithoutSetInput : Obligations.InputStaysZeroWithoutSetInput := by
  intro ops s t hops hin hrun
  exact runOps_preserves (P := fun u => u.inputPort = 0#4)
    (fun op hmem _ _ => applyOp_inputPort_zero fun v heq => hops v (heq ▸ hmem)) hrun hin

/-- The output port after an execution, by the opcode: only the two OUT rows write it. -/
theorem exec_outputPort {i : Instr} {s t : State} (h : exec i s = .next t) :
    t.outputPort = if i.opcode = 0b1011#4 then i.lowNibble
      else if i.opcode = 0b1001#4 then s.registerB else s.outputPort := by
  cases i with
  | jncImm imm =>
    obtain ⟨-, rfl⟩ | ⟨-, rfl⟩ := exec_jncImm_cases h <;> rfl
  | _ => cases h; rfl

/-- Settles O43: the fetched byte's fields are those of the decoded instruction, and OUT imm uses its low
nibble. -/
theorem outputPortKeepsItsValue : Obligations.OutputPortKeepsItsValue := by
  intro s t h
  rw [exec_outputPort h, decode_opcode]
  by_cases hout : opcodeOf s.fetch = 0b1011#4
  · rw [decode_lowNibble (by rw [hout]; rfl)]
  · rw [if_neg hout, if_neg hout]

/-- Executing with another output port differs in the output port alone. -/
theorem exec_setOut {i : Instr} {s t : State} (h : exec i s = .next t) (v : Nibble) :
    ∃ w, exec i (s.setOut v) = .next (t.setOut w) := by
  cases i with
  | jncImm imm =>
    obtain ⟨hc, rfl⟩ | ⟨hc, rfl⟩ := exec_jncImm_cases h
    · exact ⟨v, exec_jncImm_of_carry_clear (s := s.setOut v) hc imm⟩
    · exact ⟨v, exec_jncImm_of_carry_set (s := s.setOut v) hc imm⟩
  | _ => cases h; exact ⟨_, rfl⟩

/-- An operation with another output port differs in the output port alone. -/
theorem applyOp_setOut {op : HostOp} {s t : State} (h : applyOp op s = .next t) (v : Nibble) :
    ∃ w, applyOp op (s.setOut v) = .next (t.setOut w) := by
  cases op with
  | step => exact exec_setOut h v
  | reset | writeMemory | setInput => cases h; exact ⟨_, rfl⟩

/-- A run with another output port differs in the output port alone. -/
theorem runOps_setOut {ops : List HostOp} {s t : State} (h : runOps ops s = .next t) (v : Nibble) :
    ∃ w, runOps ops (s.setOut v) = .next (t.setOut w) := by
  induction ops generalizing s v with
  | nil => cases h; exact ⟨v, rfl⟩
  | cons op ops ih =>
    obtain ⟨u, hop, hrun⟩ := applyOp_next_of_runOps_cons h
    obtain ⟨w, hop'⟩ := applyOp_setOut hop v
    rw [runOps_cons_next hop']
    exact ih hrun w

/-- Settles O44: the two end states differ in the output port alone. -/
theorem outputPortIsNeverRead : Obligations.OutputPortIsNeverRead := by
  intro ops s t v h
  obtain ⟨w, hrun⟩ := runOps_setOut h v
  exact ⟨t.setOut w, hrun, rfl, rfl, rfl, rfl, rfl, rfl⟩

/-- Settles O47: the operation of the edge, by the three pins in their order of priority. -/
theorem clockEdgeFollowsPinPriority : Obligations.ClockEdgeFollowsPinPriority := by
  intro p s
  refine ⟨fun hr => ?reset, fun hr hm => ?write, fun hr hm hi => ?input, fun hr hm hi => ?step⟩
  case reset =>
    have hop : p.operation = .reset := by simp [Pins.operation, hr]
    rw [clockEdge, hop, applyOp_reset]
  case write =>
    have hop : p.operation = .writeMemory p.memAddr p.memWdata := by simp [Pins.operation, hr, hm]
    rw [clockEdge, hop, applyOp_writeMemory]
  case input =>
    have hop : p.operation = .setInput p.inPort := by simp [Pins.operation, hr, hm, hi]
    rw [clockEdge, hop, applyOp]
  case step =>
    have hop : p.operation = .step := by simp [Pins.operation, hr, hm, hi]
    rw [clockEdge, hop, applyOp]

end Sys2Proof.Machine

/-! The frame of each instruction (rule R87) and the unassigned opcodes (rules R105, R106). -/

namespace Sys2Proof.Machine

/-- Settles O33, row by row; the input port and memory are kept by every row. -/
theorem frameOfEveryInstruction : Obligations.FrameOfEveryInstruction := by
  intro imm i s t h
  obtain ⟨hin, hmem⟩ := exec_inputPort_memory h
  have hsame : SameMemory s t := State.readMemory_congr hmem
  refine ⟨?toA, ?toB, ?toOut, ?jump, ?unassigned⟩
  case toA => rintro (rfl | rfl | rfl | rfl) <;> (cases h; exact ⟨rfl, rfl, hin, hsame⟩)
  case toB => rintro (rfl | rfl | rfl | rfl) <;> (cases h; exact ⟨rfl, rfl, hin, hsame⟩)
  case toOut => rintro (rfl | rfl) <;> (cases h; exact ⟨rfl, rfl, hin, hsame⟩)
  case jump =>
    rintro (rfl | rfl)
    · cases h
      exact ⟨rfl, rfl, rfl, hin, hsame⟩
    · obtain ⟨-, rfl⟩ | ⟨-, rfl⟩ := exec_jncImm_cases h <;> exact ⟨rfl, rfl, rfl, hin, hsame⟩
  case unassigned =>
    rintro (rfl | rfl | rfl | rfl) <;> (cases h; exact ⟨rfl, rfl, rfl, rfl, hin, hsame⟩)

/-- An unassigned opcode only advances the program counter (decision D3). -/
theorem exec_of_unassigned {i : Instr} (hu : unassignedOpcode i.opcode = true) (s : State) :
    exec i s = .next s.advance := by
  cases i with
  | unassigned8 | unassignedA | unassignedC | unassignedD => rfl
  | _ => cases hu

/-- Settles O26: the next state is the advance, which keeps every other field. -/
theorem unassignedOpcodesOnlyAdvance : Obligations.UnassignedOpcodesOnlyAdvance := by
  intro imm s i hi
  have hu : unassignedOpcode i.opcode = true := by rcases hi with rfl | rfl | rfl | rfl <;> rfl
  exact ⟨s.advance, exec_of_unassigned hu s, inc_toNat s.programCounter, rfl, rfl, rfl, rfl, rfl,
    s.advance_readMemory⟩

/-- The policy the spec fixes is the one `exec` follows. -/
theorem stepUnder_fixed (s : State) : stepUnder Config.unassignedPolicy s = step s := by
  rw [stepUnder, execUnder, step_eq]
  split
  case isTrue hu => rw [unassignedUnder_fixed, exec_of_unassigned hu]
  case isFalse => rfl

/-- The policy plays no part in a step on an assigned opcode. -/
theorem stepUnder_of_assigned {s : State} (ha : FetchesAssigned s) (p : Config.UnassignedPolicy) :
    stepUnder p s = step s := by
  rw [stepUnder, execUnder, decode_opcode, ha, if_neg Bool.false_ne_true, step_eq]

/-- Settles O58, by induction on the number of steps: each fetches an assigned opcode, so it is the same step
under both machines. -/
theorem unassignedPolicyDoesNotMatterWithoutUnassignedOpcodes :
    Obligations.UnassignedPolicyDoesNotMatterWithoutUnassignedOpcodes := by
  refine ⟨stepUnder_fixed, fun p n => ?_⟩
  induction n with
  | zero => exact fun s _ => rfl
  | succ n ih =>
    intro s ⟨ha, hrest⟩
    obtain ⟨t, hstep⟩ := exec_next (decode s.fetch) s
    have hunder : stepUnder p s = .next t := (stepUnder_of_assigned ha p).trans hstep
    have hfirst := run_succ_of_step (coreUnder p) hunder n
    have hlast := run_succ_of_step Sys2Proof.core hstep n
    exact hfirst.trans ((ih t (hrest t hstep)).trans hlast.symm)

end Sys2Proof.Machine

/-! Jumps and the carry over several steps (rules R59, R102, R138). -/

namespace Sys2Proof.Machine

/-- A step on JMP is a taken jump. -/
theorem step_jmp {s : State} {imm : Nibble} (hf : s.fetch = packByte 0b1111#4 imm) :
    step s = .next (jumpTo imm s) := by
  rw [step_of_fetch hf, decodeFields_jmp, exec_jmpImm]

/-- A step on JNC with the carry clear is a taken jump, by the fields of the fetched byte. -/
theorem step_jnc_of_carry_clear {s : State} (hop : opcodeOf s.fetch = 0b1110#4) (hc : s.carry = false) :
    step s = .next (jumpTo (immOf s.fetch) s) := by
  rw [step_eq, decode, hop, decodeFields_jnc, exec_jncImm_of_carry_clear hc]

/-- A step on JNC clears the carry and goes by its old value. -/
theorem step_jnc {s : State} (hop : opcodeOf s.fetch = 0b1110#4) :
    ∃ t, step s = .next t ∧ t.carry = false ∧
      t.programCounter = if s.carry then inc s.programCounter else immOf s.fetch := by
  cases hc : s.carry with
  | false => exact ⟨_, step_jnc_of_carry_clear hop hc, rfl, rfl⟩
  | true => exact ⟨_, step_jnc_of_carry_set hop hc, rfl, rfl⟩

/-- Settles O37: JNC goes by the flag its predecessor left, and that flag is `carryAfter`. -/
theorem carryLivesForOneInstruction : Obligations.CarryLivesForOneInstruction := by
  intro s t h ha hop
  obtain ⟨u, hstep, hclear, hpc⟩ := step_jnc hop
  rw [step_carry ha h] at hpc
  refine ⟨u, hstep, hclear, fun hA hB => ?other, fun hA => ?addA, fun hB => ?addB⟩
  case other => rw [hpc, carryAfter_of_not_add hA hB, if_neg Bool.false_ne_true]
  case addA => simp [hpc, hA, carryAfter]
  case addB => simp [hpc, hB, carryAfter]

/-- Settles O55, by induction on the number of steps: the step only clears the carry, so the next one finds
the same jump. -/
theorem jumpToItselfHoldsTheMachine : Obligations.JumpToItselfHoldsTheMachine := by
  intro s n hf
  have hstep : ∀ u : State, u.fetch = packByte 0b1111#4 u.programCounter →
      step u = .next (u.setCarry false) := fun _ => step_jmp
  induction n generalizing s with
  | zero => exact run_succ_of_step Sys2Proof.core (hstep s hf) 0
  | succ n ih => exact (run_succ_of_step Sys2Proof.core (hstep s hf) (n + 1)).trans (ih (s.setCarry false) hf)

/-- After a taken jump the byte at the target is fetched. -/
theorem jumpTo_fetch (target : Nibble) (s : State) : (jumpTo target s).fetch = s.readMemory target := rfl

/-- Settles O56: both premises give the taken jump, whose fetch is the byte at the target. -/
theorem jumpTakesEffectAtTheNextFetch : Obligations.JumpTakesEffectAtTheNextFetch := by
  intro s imm hjump
  have hstep : step s = .next (jumpTo imm s) := by
    obtain hf | ⟨hf, hc⟩ := hjump
    · exact step_jmp hf
    · rw [step_of_fetch hf, decodeFields_jnc, exec_jncImm_of_carry_clear hc]
  exact ⟨jumpTo imm s, hstep, by rw [step_eq, jumpTo_fetch]⟩

end Sys2Proof.Machine

/-! The laws of the adder (rule R73), and that no assigned instruction is a no-op (rule R59). -/

namespace Sys2Proof.Machine

/-- The order of the addends does not matter. -/
theorem adder_comm (a b : Nibble) : add a b = add b a := by
  rw [add, add, Nat.add_comm]

/-- A carry-out is a wrapped result: one smaller than the first addend. -/
theorem add_carry_iff_result_lt (a b : Nibble) : (add a b).1 = true ↔ (add a b).2 < a := by
  have ha := a.isLt
  have hb := b.isLt
  rw [add_carry, decide_eq_true_iff, BitVec.lt_def, add_result_toNat]
  omega

/-- Adding zero changes nothing and never carries. -/
theorem adder_zero (a : Nibble) : add a 0#4 = (false, a) := by
  refine Prod.ext ?_ (BitVec.eq_of_toNat_eq ?_)
  · exact decide_eq_false (Nat.not_le_of_lt a.isLt)
  · rw [add_result_toNat]
    exact Nat.mod_eq_of_lt a.isLt

/-- Adding `16 - k` subtracts `k`, with a carry-out exactly when nothing is borrowed. -/
theorem add_complement (a : Nibble) {k : Nibble} (hk : 1 ≤ k.toNat) :
    (add a (BitVec.ofNat 4 (16 - k.toNat))).1 = decide (a.toNat ≥ k.toNat) ∧
      (add a (BitVec.ofNat 4 (16 - k.toNat))).2.toNat = (a.toNat + 16 - k.toNat) % 16 := by
  have hlt := k.isLt
  have hcompl : (BitVec.ofNat 4 (16 - k.toNat)).toNat = 16 - k.toNat :=
    Nat.mod_eq_of_lt (by omega)
  rw [add_carry, add_result_toNat, hcompl, decide_eq_decide]
  omega

/-- Settles O12: the laws one by one; the two examples are evaluated. -/
theorem adderLaws : Obligations.AdderLaws := by
  refine ⟨adder_comm, fun a => ⟨adder_zero a, (adder_comm 0#4 a).trans (adder_zero a)⟩,
    fun a b => ⟨?_, ?_⟩, fun a _ => add_complement a, by decide⟩
  · exact add_carry_iff_result_lt a b
  · rw [adder_comm]
    exact add_carry_iff_result_lt b a

/-- A sum that carries out is not its first addend. -/
theorem add_result_ne_of_carry {a b : Nibble} (h : (add a b).1 = true) : (add a b).2 ≠ a :=
  BitVec.ne_of_lt ((add_carry_iff_result_lt a b).mp h)

/-- Settles O57: an ADD that keeps the carry set changes its register, and every other assigned instruction
clears the carry. -/
theorem noAssignedInstructionIsAPureNop : Obligations.NoAssignedInstructionIsAPureNop := by
  intro i s t p ha hc h heq
  have hcarry : t.carry = true := by rw [heq, State.setPc_carry, hc]
  cases i with
  | unassigned8 | unassignedA | unassignedC | unassignedD => cases ha
  | addAImm imm =>
    rw [exec_addAImm] at h
    cases h
    exact add_result_ne_of_carry hcarry (congrArg State.registerA heq)
  | addBImm imm =>
    rw [exec_addBImm] at h
    cases h
    exact add_result_ne_of_carry hcarry (congrArg State.registerB heq)
  | _ =>
    have hclear : t.carry = false := exec_carry ha h
    rw [hclear] at hcarry
    cases hcarry

end Sys2Proof.Machine

/-! The decoder, the encoder and the assembler (rules R53, R54, R57, R58). -/

namespace Sys2Proof

/-- A byte is packed from its two fields. -/
theorem packByte_fields (ir : Byte) : packByte (opcodeOf ir) (immOf ir) = ir :=
  BitVec.eq_of_toNat_eq (by rw [packByte_toNat, ← toNat_eq_fields])

/-- An instruction is determined by its opcode and its low nibble. -/
theorem Instr.eq_of_fields {i j : Instr} (hop : i.opcode = j.opcode) (hlow : i.lowNibble = j.lowNibble) :
    i = j := by
  rw [← decodeFields_opcode_lowNibble i, hop, hlow, decodeFields_opcode_lowNibble]

/-- Where the opcode ignores the low nibble, decoding gives the same instruction for any. -/
theorem decodeFields_of_ignoresLowNibble {op : Nibble} (h : ignoresLowNibble op = true) (imm imm' : Nibble) :
    decodeFields op imm = decodeFields op imm' := by
  refine Instr.eq_of_fields ?_ ?_
  · rw [decodeFields_opcode, decodeFields_opcode]
  · rw [decodeFields_lowNibble, decodeFields_lowNibble, h, if_pos rfl, if_pos rfl]

/-- An ill-formed line assembles to nothing. -/
theorem assemble_of_ill_formed {l : AsmLine} (h : l.wellFormed = false) : assemble l = none := by
  rw [assemble, h, if_neg Bool.false_ne_true]

/-- A well-formed line assembles to the encoding of the instruction it spells. -/
theorem assemble_of_wellFormed {l : AsmLine} (h : l.wellFormed = true) :
    assemble l = some (encode (l.spelling.instr (BitVec.ofNat 4 (l.immediate.getD 0)))) := by
  rw [assemble, h, if_pos rfl]

/-- An immediate of 16 or more makes a line ill formed, whether or not its spelling has one. -/
theorem wellFormed_of_large_immediate (sp : Spelling) {n : Nat} (hn : 16 ≤ n) :
    AsmLine.wellFormed ⟨sp, some n⟩ = false := by
  cases hu : sp.usesImmediate with
  | false => simp [AsmLine.wellFormed, hu]
  | true => simp [AsmLine.wellFormed, hu, hn]

end Sys2Proof

namespace Sys2Proof.Machine

/-- Settles O7: each byte is packed from its opcode and the immediate, and the opcode selects its row. -/
theorem decodesByTheOpcodeMap : Obligations.DecodesByTheOpcodeMap := fun imm =>
  ⟨decode_ofNat 0x0#4 imm, decode_ofNat 0x1#4 imm, decode_ofNat 0x2#4 imm, decode_ofNat 0x3#4 imm,
    decode_ofNat 0x4#4 imm, decode_ofNat 0x5#4 imm, decode_ofNat 0x6#4 imm, decode_ofNat 0x7#4 imm,
    decode_ofNat 0x8#4 imm, decode_ofNat 0x9#4 imm, decode_ofNat 0xA#4 imm, decode_ofNat 0xB#4 imm,
    decode_ofNat 0xC#4 imm, decode_ofNat 0xD#4 imm, decode_ofNat 0xE#4 imm, decode_ofNat 0xF#4 imm⟩

/-- Settles O8: the two fields of the encoding are sent back to the instruction by the opcode map. -/
theorem decodeOfEncodeIsTheInstruction : Obligations.DecodeOfEncodeIsTheInstruction := decode_encode

/-- Settles O9: decoding keeps the opcode, and the low nibble except where the opcode ignores it. -/
theorem encodeOfDecodeIsTheCanonicalByte : Obligations.EncodeOfDecodeIsTheCanonicalByte := by
  intro ir
  rw [encode, decode_opcode, decode, decodeFields_lowNibble]
  split
  · rfl
  · exact packByte_fields ir

/-- Settles O10: the two bytes decode to one instruction. -/
theorem lowNibbleOfOperandlessOpcodesIsIgnored : Obligations.LowNibbleOfOperandlessOpcodesIsIgnored := by
  intro op imm imm' h
  have hdecode : decode (packByte op imm) = decode (packByte op imm') := by
    rw [decode_packByte, decode_packByte, decodeFields_of_ignoresLowNibble h]
  exact ⟨hdecode, fun s => by rw [hdecode]⟩

/-- Settles O59: a well-formed line assembles to an encoding, which decoding undoes. -/
theorem assemblerEncodesWhatItSpells : Obligations.AssemblerEncodesWhatItSpells :=
  ⟨fun sp _ hn => assemble_of_ill_formed (wellFormed_of_large_immediate sp hn),
    fun _ => assemble_of_ill_formed,
    fun _ hwf => ⟨_, assemble_of_wellFormed hwf, decode_encode _⟩⟩

end Sys2Proof.Machine
